-- ==== Sys2Proof/Word.lean ====
section
/-! DEFINITION. The widths of the block's data (00_scope.md R7, R12, R14; 20_memory.md R60): names only. -/

namespace Sys2Proof

/-- A 32-bit quantity: a command word, a response, a register, a word of `BITS` (00_scope.md R12). -/
abbrev Word := BitVec 32

/-- A sample: 16 bits, two's complement, 15 fraction bits (00_scope.md R14). -/
abbrev Sample := BitVec 16

/-- One element of `TABLE`: an unsigned 16-bit count (20_memory.md R60). -/
abbrev Count := BitVec 16

end Sys2Proof
end

