-- ==== Sys2Proof/Syntax.lean ====
section
/-! DEFINITION. The commands of the block (30_encoding.md R86), one constructor per row of opcode_table.json,
and the register numbers of 10_state.md R30. -/

namespace Sys2Proof

/-- The register numbers 0 to 15 by name (10_state.md R30). Number 11 is reserved (R34). -/
inductive Reg where
  | status | err | errCmd | wrIdx
  | maxCount | bestLag | corrLag | tblLo
  | edge0 | edge1 | freq | reserved11
  | cfgRate | cfgWindow | cfgMinp | cfgMaxp
deriving DecidableEq, Repr

/-- A command (30_encoding.md R86). An index operand is a natural number: which ones a word can hold is
`wellFormed`. -/
inductive Instr where
  /-- `NOP` (45_system.md R186) -/
  | nop
  /-- `WRST` (44_pipeline.md R171) -/
  | wrst
  /-- `ZC smp` (40_zerocross.md R101) -/
  | zc (smp : Sample)
  /-- `PUSH smp` (44_pipeline.md R174) -/
  | push (smp : Sample)
  /-- `BGET idx`, a stream bit index (41_bitstream.md R111) -/
  | bget (idx : Nat)
  /-- `BSET idx, v` (41_bitstream.md R113) -/
  | bset (idx : Nat) (v : Bool)
  /-- `ACORR idx`, a start lag (41_bitstream.md R118) -/
  | acorr (idx : Nat)
  /-- `TGET idx`, a lag (41_bitstream.md R128) -/
  | tget (idx : Nat)
  /-- `HCORR` (42_harmonic.md R141) -/
  | hcorr
  /-- `REFINE` (43_refiner.md R151) -/
  | refine
  /-- `RUN` (44_pipeline.md R178) -/
  | run
  /-- `RDR reg` (45_system.md R188) -/
  | rdr (reg : Reg)
  /-- `LDR reg, imm24` (45_system.md R191) -/
  | ldr (reg : Reg) (imm : BitVec 24)
  /-- `WGET idx`, a word number (41_bitstream.md R115) -/
  | wget (idx : Nat)
deriving DecidableEq, Repr

end Sys2Proof
end

