-- ==== Sys2Proof/WellFormed.lean ====
section
/-! DEFINITION. Which terms of `Instr` a command word can hold (30_encoding.md R87). -/

namespace Sys2Proof

/-- An index operand fits the 16-bit field `idx` (30_encoding.md R84, R87). -/
def indexFits (idx : Nat) : Bool := idx < 65536

/-- The operands of a command fit the fields of its format. A register number 11, a load of a read-only
register and an index outside its space are well formed: they decode and fault at execution (30_encoding.md
R90). -/
def wellFormed : Instr → Bool
  | .bget idx => indexFits idx
  | .bset idx _ => indexFits idx
  | .acorr idx => indexFits idx
  | .tget idx => indexFits idx
  | .wget idx => indexFits idx
  | .nop => true
  | .wrst => true
  | .zc _ => true
  | .push _ => true
  | .hcorr => true
  | .refine => true
  | .run => true
  | .rdr _ => true
  | .ldr _ _ => true

end Sys2Proof
end

