-- ==== Sys2Proof/Decode.lean ====
section
/-! DEFINITION. From a 32-bit command word to a command, and back (30_encoding.md R81 to R89; opcode_table.json,
which wins where the two differ, 90_conflicts.md C0). -/

namespace Sys2Proof

/-- A row of the opcode table: the mnemonic, the bits that are fixed and their values. -/
structure Row where
  mnemonic : String
  mask : Word
  pattern : Word
deriving DecidableEq, Repr

/-- Why a word is no command (30_encoding.md R89). The block answers both with `IllegalCmd`. -/
inductive DecodeError where
  /-- opcode 0xE or 0xF -/
  | reservedOpcode
  /-- the opcode of the named row, with a must-be-zero bit at 1 -/
  | mustBeZero (mnemonic : String)
deriving DecidableEq, Repr

def rowNop    : Row := ⟨"NOP",    0xFFFFFFFF#32, 0x00000000#32⟩
def rowWrst   : Row := ⟨"WRST",   0xFFFFFFFF#32, 0x10000000#32⟩
def rowZc     : Row := ⟨"ZC",     0xFFFF0000#32, 0x20000000#32⟩
def rowPush   : Row := ⟨"PUSH",   0xFFFF0000#32, 0x30000000#32⟩
def rowBget   : Row := ⟨"BGET",   0xFFFF0000#32, 0x40000000#32⟩
def rowBset   : Row := ⟨"BSET",   0xFFFE0000#32, 0x50000000#32⟩
def rowAcorr  : Row := ⟨"ACORR",  0xFFFF0000#32, 0x60000000#32⟩
def rowTget   : Row := ⟨"TGET",   0xFFFF0000#32, 0x70000000#32⟩
def rowHcorr  : Row := ⟨"HCORR",  0xFFFFFFFF#32, 0x80000000#32⟩
def rowRefine : Row := ⟨"REFINE", 0xFFFFFFFF#32, 0x90000000#32⟩
def rowRun    : Row := ⟨"RUN",    0xFFFFFFFF#32, 0xA0000000#32⟩
def rowRdr    : Row := ⟨"RDR",    0xF0FFFFFF#32, 0xB0000000#32⟩
def rowLdr    : Row := ⟨"LDR",    0xF0000000#32, 0xC0000000#32⟩
def rowWget   : Row := ⟨"WGET",   0xFFFF0000#32, 0xD0000000#32⟩

/-- The 14 rows of opcode_table.json, in its order (30_encoding.md R86). -/
def opcodeTable : List Row :=
  [rowNop, rowWrst, rowZc, rowPush, rowBget, rowBset, rowAcorr, rowTget, rowHcorr, rowRefine, rowRun, rowRdr,
    rowLdr, rowWget]

/-- A word selects a row exactly when its fixed bits have the row's values (30_encoding.md R86). -/
def Row.fits (r : Row) (cw : Word) : Bool := cw &&& r.mask == r.pattern

/-- The row of a command (30_encoding.md R86). -/
def rowOf : Instr → Row
  | .nop => rowNop
  | .wrst => rowWrst
  | .zc _ => rowZc
  | .push _ => rowPush
  | .bget _ => rowBget
  | .bset _ _ => rowBset
  | .acorr _ => rowAcorr
  | .tget _ => rowTget
  | .hcorr => rowHcorr
  | .refine => rowRefine
  | .run => rowRun
  | .rdr _ => rowRdr
  | .ldr _ _ => rowLdr
  | .wget _ => rowWget

/-- The register a 4-bit number names (10_state.md R30). -/
def regOfNum (n : BitVec 4) : Reg :=
  match n.toNat with
  | 0 => .status
  | 1 => .err
  | 2 => .errCmd
  | 3 => .wrIdx
  | 4 => .maxCount
  | 5 => .bestLag
  | 6 => .corrLag
  | 7 => .tblLo
  | 8 => .edge0
  | 9 => .edge1
  | 10 => .freq
  | 11 => .reserved11
  | 12 => .cfgRate
  | 13 => .cfgWindow
  | 14 => .cfgMinp
  | _ => .cfgMaxp

/-- The number of a register (10_state.md R30). -/
def regNum : Reg → BitVec 4
  | .status => 0#4
  | .err => 1#4
  | .errCmd => 2#4
  | .wrIdx => 3#4
  | .maxCount => 4#4
  | .bestLag => 5#4
  | .corrLag => 6#4
  | .tblLo => 7#4
  | .edge0 => 8#4
  | .edge1 => 9#4
  | .freq => 10#4
  | .reserved11 => 11#4
  | .cfgRate => 12#4
  | .cfgWindow => 13#4
  | .cfgMinp => 14#4
  | .cfgMaxp => 15#4

/-- `op`, bits 31 to 28 in every format (30_encoding.md R81). -/
def opField (cw : Word) : BitVec 4 := cw.extractLsb' 28 4

/-- `smp`, bits 15 to 0 of format S (30_encoding.md R83). -/
def smpField (cw : Word) : Sample := cw.extractLsb' 0 16

/-- `idx`, bits 15 to 0 of format I, zero extended (30_encoding.md R84, R87). -/
def idxField (cw : Word) : Nat := (cw.extractLsb' 0 16).toNat

/-- `v`, bit 16 of format I (30_encoding.md R84). -/
def vField (cw : Word) : Bool := cw.getLsbD 16

/-- `reg`, bits 27 to 24 of format R (30_encoding.md R85). -/
def regField (cw : Word) : Reg := regOfNum (cw.extractLsb' 24 4)

/-- `imm24`, bits 23 to 0 of format R (30_encoding.md R85). -/
def immField (cw : Word) : BitVec 24 := cw.extractLsb' 0 24

/-- The command of a row, if the word selects the row. -/
def select (r : Row) (cw : Word) (i : Instr) : Except DecodeError Instr :=
  if r.fits cw then .ok i else .error (.mustBeZero r.mnemonic)

/-- Decoding (30_encoding.md R88): a function of the 32 bits alone, total. -/
def decode (cw : Word) : Except DecodeError Instr :=
  match (opField cw).toNat with
  | 0x0 => select rowNop cw .nop
  | 0x1 => select rowWrst cw .wrst
  | 0x2 => select rowZc cw (.zc (smpField cw))
  | 0x3 => select rowPush cw (.push (smpField cw))
  | 0x4 => select rowBget cw (.bget (idxField cw))
  | 0x5 => select rowBset cw (.bset (idxField cw) (vField cw))
  | 0x6 => select rowAcorr cw (.acorr (idxField cw))
  | 0x7 => select rowTget cw (.tget (idxField cw))
  | 0x8 => select rowHcorr cw .hcorr
  | 0x9 => select rowRefine cw .refine
  | 0xA => select rowRun cw .run
  | 0xB => select rowRdr cw (.rdr (regField cw))
  | 0xC => select rowLdr cw (.ldr (regField cw) (immField cw))
  | 0xD => select rowWget cw (.wget (idxField cw))
  | _ => .error .reservedOpcode

/-- Format N (30_encoding.md R82). -/
def formatN (op : BitVec 4) : Word := op ++ 0#28

/-- Format S (30_encoding.md R83). -/
def formatS (op : BitVec 4) (smp : Sample) : Word := op ++ 0#12 ++ smp

/-- Format I (30_encoding.md R84). -/
def formatI (op : BitVec 4) (v : Bool) (idx : Nat) : Word :=
  op ++ 0#11 ++ BitVec.ofBool v ++ BitVec.ofNat 16 idx

/-- Format R (30_encoding.md R85). -/
def formatR (op : BitVec 4) (reg : Reg) (imm : BitVec 24) : Word := op ++ regNum reg ++ imm

/-- The command word of a command (30_encoding.md R82 to R86, R93). -/
def encode : Instr → Word
  | .nop => formatN 0x0#4
  | .wrst => formatN 0x1#4
  | .zc smp => formatS 0x2#4 smp
  | .push smp => formatS 0x3#4 smp
  | .bget idx => formatI 0x4#4 false idx
  | .bset idx v => formatI 0x5#4 v idx
  | .acorr idx => formatI 0x6#4 false idx
  | .tget idx => formatI 0x7#4 false idx
  | .hcorr => formatN 0x8#4
  | .refine => formatN 0x9#4
  | .run => formatN 0xA#4
  | .rdr reg => formatR 0xB#4 reg 0#24
  | .ldr reg imm => formatR 0xC#4 reg imm
  | .wget idx => formatI 0xD#4 false idx

/-- The instruction the decoder reads from a word given as a number of `nbits` bits. The block has one
instruction length, 32 bits, and no byte order (20_memory.md R65), so the word is the number. -/
def decodeTableWord (nbits w : Nat) : Option Instr :=
  match decode (BitVec.ofNat 32 (w % 2 ^ nbits)) with
  | .ok i => some i
  | .error _ => none

end Sys2Proof
end

