-- ==== Sys2Proof/Config.lean ====
section
/-! DEFINITION. What a build fixes: the primary parameters of 00_scope.md R7, the parameter sets the spec
names, and the two open parameters no rule reads (92_eei_decisions.md). The derived parameters and the
constants of R7 stand in Machine/Parameters.lean. -/

namespace Sys2Proof

/-- The primary parameters of a build (00_scope.md R7): plain natural numbers. Which values a build may have
is `Sys2Proof.Machine.paramsOk`. -/
structure Params where
  /-- `SAMPLE_RATE`, samples per second -/
  sampleRate : Nat
  /-- `MIN_PERIOD`, a sample count -/
  minPeriod : Nat
  /-- `MAX_PERIOD`, a sample count -/
  maxPeriod : Nat
deriving DecidableEq, Repr

namespace Config

/-- The small set S of 00_scope.md R10 and 95_test_vectors.md: `WINDOW_SIZE` is 128. -/
def small : Params := { sampleRate := 8000, minPeriod := 4, maxPeriod := 64 }

/-- The medium set M of 95_test_vectors.md: `WINDOW_SIZE` is 256. -/
def medium : Params := { sampleRate := 8000, minPeriod := 4, maxPeriod := 128 }

/-- The example set T of 00_scope.md R10: `WINDOW_SIZE` is 2048. -/
def tone : Params := { sampleRate := 44100, minPeriod := 88, maxPeriod := 882 }

/-- The parameter set of `State.reset`. DESIGN CHOICE (log 2), unsafe: the spec leaves the set to the build;
statements of the model are about every admitted set. -/
def build : Params := small

/-- In which order a transport narrower than 32 bits sends the bytes of a word. -/
inductive ByteOrder where
  | mostSignificantFirst
  | leastSignificantFirst
deriving DecidableEq, Repr, Inhabited

/-- `PORT_BYTE_ORDER`, open: "no rule reads" it (20_memory.md R65; log 15). It has no value in the model. -/
opaque portByteOrder : ByteOrder

/-- `CMD_LATENCY`, open: "no rule reads" it (70_reset_and_hazards.md R245; log 15). It has no value in the
model. -/
opaque cmdLatency : Nat

end Config

end Sys2Proof
end

