-- ==== Sys2Proof/Machine/Parameters.lean ====
section
/-! DEFINITION. The derived parameters and the constants of 00_scope.md R7, R8, R9, and the sets a build may
have (R7, 70_reset_and_hazards.md R234). -/

namespace Sys2Proof.Machine

/-- The first of `p`, `2 p`, `4 p`, ... that is at least `n`, looking at no more than the given number of
doublings. -/
def doubleUntil : Nat → Nat → Nat → Nat
  | 0, p, _ => p
  | fuel + 1, p, n => if n ≤ p then p else doubleUntil fuel (2 * p) n

/-- "the smallest power of two ≥ n": `n` doublings of 1 always reach `n`. -/
def powerOfTwoFrom (n : Nat) : Nat := doubleUntil n 1 n

/-- `WORD_WIDTH` (00_scope.md R7) -/
def wordWidth : Nat := 32

/-- `WINDOW_SIZE`, "the smallest power of two ≥ 2×max_period" (00_scope.md R7) -/
def windowSize (p : Params) : Nat := powerOfTwoFrom (2 * p.maxPeriod)

/-- `WORD_COUNT` (00_scope.md R7) -/
def wordCount (p : Params) : Nat := windowSize p / wordWidth

/-- `HALF_WORD_COUNT`, the formula and not its gloss (00_scope.md R7; 90_conflicts.md C3) -/
def halfWordCount (p : Params) : Nat := wordCount p / 2 - 1

/-- `HALF_WINDOW` (00_scope.md R7) -/
def halfWindow (p : Params) : Nat := windowSize p / 2

/-- `CMP_BITS`, the number of stream bits one correlation compares (00_scope.md R9) -/
def cmpBits (p : Params) : Nat := wordWidth * halfWordCount p

/-- `ZC_LOW` is the rational `zcLowNum / zcLowDen`, -1/10 (00_scope.md R7, R8) -/
def zcLowNum : Int := -1
def zcLowDen : Int := 10

/-- `ZC_HIGH` is the rational `zcHighNum / zcHighDen`, 0 (00_scope.md R7, R8) -/
def zcHighNum : Int := 0
def zcHighDen : Int := 1

/-- `HC_NUM` and `HC_DEN`: the threshold 3/20 of the corrector (00_scope.md R7, R8) -/
def hcNum : Nat := 3
def hcDen : Nat := 20

/-- A sample stands for its integer over this: 15 fraction bits (00_scope.md R14) -/
def sampleScale : Int := 32768

/-- `FREQ_FRAC`, the fraction bits of a frequency (00_scope.md R7) -/
def freqFrac : Nat := 12

/-- The parameter sets a build may have (00_scope.md R7; 70_reset_and_hazards.md R234). -/
abbrev paramsOk (p : Params) : Prop :=
  16 ≤ p.sampleRate ∧ p.sampleRate < 2 ^ 20 ∧ 1 ≤ p.minPeriod ∧ p.minPeriod ≤ p.maxPeriod ∧
    p.minPeriod < halfWindow p ∧ 33 ≤ p.maxPeriod ∧ p.maxPeriod ≤ 32768

end Sys2Proof.Machine
end

