-- ==== Sys2Proof/Machine/Operands.lean ====
section
/-! DEFINITION. What an operand stands for (30_encoding.md R87): samples as signed numbers, index operands as
elements and bits, loaded values, response data. -/

namespace Sys2Proof.Machine

/-- `raw(smp)`, the 16 bits as a two's complement integer (00_scope.md R14). -/
def raw (smp : Sample) : Int := smp.toInt

/-- The word of a stream bit (20_memory.md R61, R64). -/
def wordOfBit (i : Nat) : Nat := i / wordWidth

/-- The offset of a stream bit in its word, counted from the bit of weight 1 (20_memory.md R64). -/
def offsetOfBit (i : Nat) : Nat := i % wordWidth

/-- `imm24` zero extended (30_encoding.md R87; 45_system.md R191). -/
def immWord (imm : BitVec 24) : Word := imm.setWidth 32

/-- One bit as a response (30_encoding.md R92). -/
def bitWord (b : Bool) : Word := if b then 1#32 else 0#32

/-- A count of the table as a response (30_encoding.md R92). -/
def countWord (c : Count) : Word := c.setWidth 32

/-- The response of `ACORR`: `[31:16] = max_count`, `[15:0] = best_lag` (30_encoding.md R92). -/
def extremesWord (maxCount bestLag : Nat) : Word :=
  BitVec.ofNat 32 maxCount <<< 16 ||| BitVec.ofNat 32 bestLag

/-- The three registers `LDR` may write (10_state.md R30; 45_system.md R191). -/
def loadable : Reg → Bool
  | .maxCount => true
  | .bestLag => true
  | .corrLag => true
  | _ => false

end Sys2Proof.Machine
end

