-- ==== Sys2Proof/Machine/Memory.lean ====
section
/-! DEFINITION. How a memory space is held: a list of (element index, value) pairs in one canonical form
(20_memory.md R60, R62, R63; log 8). -/

namespace Sys2Proof.Machine

/-- The listed elements of a space whose elements are `w` bits wide. -/
abbrev Cells (w : Nat) := List (Nat × BitVec w)

/-- The listed value of element `a`. -/
def lookup {w : Nat} : Cells w → Nat → Option (BitVec w)
  | [], _ => none
  | (b, v) :: m, a => if a = b then some v else lookup m a

/-- Lists `v` at element `a`, in its place by index, in place of what was listed there. -/
def put {w : Nat} : Cells w → Nat → BitVec w → Cells w
  | [], a, v => [(a, v)]
  | (b, u) :: m, a, v =>
    if a < b then (a, v) :: (b, u) :: m
    else if a = b then (a, v) :: m
    else (b, u) :: put m a v

/-- Takes element `a` off the list. -/
def drop {w : Nat} : Cells w → Nat → Cells w
  | [], _ => []
  | (b, u) :: m, a => if a = b then m else (b, u) :: drop m a

/-- Writes an element of a space whose unlisted elements read 0: writing 0 takes the element off the list. -/
def putOrDrop {w : Nat} (m : Cells w) (a : Nat) (v : BitVec w) : Cells w :=
  if v = 0#w then drop m a else put m a v

/-- The indices listed rise strictly. -/
abbrev Rising {w : Nat} (m : Cells w) : Prop := m.Pairwise (fun x y => x.1 < y.1)

/-- The three memories of the block (20_memory.md R60). An element of `bits` that is not listed reads 0, its
value after reset (10_state.md R40); an element of `sig` or `table` that is not listed holds no value
(20_memory.md R63). -/
structure Memory where
  bits : Cells 32
  sig : Cells 16
  table : Cells 16
deriving DecidableEq, Repr

/-- The canonical form: indices rise strictly, and no word of `BITS` is listed with the value it reads
anyway. Equal memories are then equal lists. -/
abbrev Memory.wf (m : Memory) : Prop :=
  Rising m.bits ∧ (∀ c ∈ m.bits, c.2 ≠ 0#32) ∧ Rising m.sig ∧ Rising m.table

end Sys2Proof.Machine
end

