-- ==== Sys2Proof/Machine/State.lean ====
section
/-! DEFINITION. The state of the block (10_state.md R20), the block at its port, what can stop the model, and the
machine right after reset (10_state.md R40; 70_reset_and_hazards.md R230). -/

namespace Sys2Proof.Machine

/-- The seven fault causes (60_exceptions.md R201). These are the block's own faults: a command that meets one
ends in a NEXT state with the response `fault`. What stops the model is `Fault` and `Refusal`. -/
inductive Cause where
  | illegalCmd
  | regAccess
  | indexRange
  | windowFull
  | windowShort
  | unwritten
  | operandRange
deriving DecidableEq, Repr

/-- The response to one command (30_encoding.md R80). -/
inductive Response where
  | ok (data : Word)
  | fault (cause : Cause)
deriving DecidableEq, Repr

/-- What the host does to the block (00_scope.md R11): it presents a command word, or it asserts and releases
`rst` (70_reset_and_hazards.md R230). -/
inductive HostEvent where
  | cmd (cw : Word)
  | rst
deriving DecidableEq, Repr

/-- The element-indexed memories (20_memory.md R60). -/
inductive Space where
  | bits | sig | table
deriving DecidableEq, Repr

/-- The state of the block: exactly the components of 10_state.md R20, "and nothing else". The parameters and the
command stream "are not state" (R20; 00_scope.md R11) and are no part of it. -/
structure Block where
  /-- `LATCHED` (10_state.md R21) -/
  latched : Bool
  /-- `BITS`, `SIG`, `TABLE` (10_state.md R22, R23, R25) -/
  mem : Memory
  /-- `WR_IDX` (10_state.md R24) -/
  wrIdx : Nat
  /-- `TBL_VALID` (10_state.md R25) -/
  tblValid : Bool
  /-- `TBL_LO` (10_state.md R25) -/
  tblLo : Nat
  /-- `MAX_COUNT` and its mark (10_state.md R26) -/
  maxCount : Word
  vMaxc : Bool
  /-- `BEST_LAG` and its mark (10_state.md R26) -/
  bestLag : Word
  vBlag : Bool
  /-- `CORR_LAG` and its mark (10_state.md R26) -/
  corrLag : Word
  vClag : Bool
  /-- `RES_VALID`, `UNDET` (10_state.md R28) -/
  resValid : Bool
  undet : Bool
  /-- `EDGE0`, `EDGE1` (10_state.md R27) -/
  edge0 : Word
  edge1 : Word
  /-- `FREQ` (10_state.md R28) -/
  freq : Word
  /-- `ERR_CODE`, `ERR_CMD` (10_state.md R29) -/
  errCode : BitVec 4
  errCmd : Word
deriving DecidableEq, Repr

/-- A block at its command port, which is what a step acts on: the state of the block (`toBlock`), and beside it what
10_state.md R20 keeps out of that state, the parameters of the build (log 1), what the host does next (log 3) and the
response at the port (log 4). -/
structure State extends Block where
  /-- not state of the block: the parameters of this build, which no step changes (00_scope.md R7; log 1) -/
  cfg : Params
  /-- not state of the block: what the host does next, the first event first (00_scope.md R11; log 3) -/
  pending : List HostEvent
  /-- not state of the block: the response of the last command (30_encoding.md R80; log 4) -/
  rsp : Option Response
deriving DecidableEq, Repr

/-- Why the model stops with a fault. None of these is a fault of the block: the commands check their operands
first, and no state a run from reset reaches meets one (20_memory.md R62; log 9). All three are safe. -/
inductive Fault where
  /-- raised by a read or write of an element outside its space, which 20_memory.md R62 rules out; safe -/
  | outsideSpace (space : Space) (index : Nat)
  /-- raised by a read of an element of `SIG` or `TABLE` that holds no value, which 20_memory.md R62 rules
  out; safe -/
  | noValue (space : Space) (index : Nat)
  /-- raised by an autocorrelation over no lag at all, for which 41_bitstream.md R124 gives no `best_lag`;
  safe -/
  | emptyLagRange
deriving DecidableEq, Repr

/-- Why the model refuses. -/
inductive Refusal where
  /-- raised by an arm of `exec` whose command has no meaning yet (none is left); safe -/
  | notModelled (mnemonic : String)
  /-- raised by `State.instantiate` for a parameter set outside 00_scope.md R7: "A parameter set that breaks
  them is not a block; no rule says what it would do" (70_reset_and_hazards.md R234); safe -/
  | badParameters
deriving DecidableEq, Repr

/-- What a step answers. -/
abbrev Out := Host.Outcome State Fault Refusal

/-- The reset state of the block (10_state.md R40; 70_reset_and_hazards.md R230). It does not depend on the
parameters. -/
def Block.reset : Block where
  latched := false
  mem := { bits := [], sig := [], table := [] }
  wrIdx := 0
  tblValid := false
  tblLo := 0
  maxCount := 0#32
  vMaxc := false
  bestLag := 0#32
  vBlag := false
  corrLag := 0#32
  vClag := false
  resValid := false
  undet := false
  edge0 := 0#32
  edge1 := 0#32
  freq := 0#32
  errCode := 0#4
  errCmd := 0#32

/-- A build right after reset, with nothing presented and no response: "a model has exactly one reset state per
parameter set" (70_reset_and_hazards.md R230). -/
def State.resetOf (p : Params) : State where
  toBlock := Block.reset
  cfg := p
  pending := []
  rsp := none

/-- The machine right after reset, for the build's parameter set (log 2). -/
def State.reset : State := State.resetOf Config.build

end Sys2Proof.Machine
end

