-- ==== Sys2Proof/Machine/Ops.lean ====
section
/-! DEFINITION. The operations the commands share: the updates of the state by name, the element accesses of
20_memory.md R62, the end of a command and the taking of a fault (60_exceptions.md R204). -/

namespace Sys2Proof.Machine

/-! ### Updates of the state -/

/-- The response the command ends with (30_encoding.md R80). -/
def respond (r : Response) (s : State) : State := { s with rsp := some r }

def setLatched (b : Bool) (s : State) : State := { s with latched := b }

def setBits (m : Cells 32) (s : State) : State := { s with mem := { s.mem with bits := m } }

/-- `SIG` and with it `WR_IDX`, which says how many of its elements hold a value (10_state.md R23, R24). -/
def setSig (m : Cells 16) (n : Nat) (s : State) : State :=
  { s with mem := { s.mem with sig := m }, wrIdx := n }

/-- A new table from lag `lo` on: elements below `lo` hold no value afterwards (10_state.md R25;
41_bitstream.md R118). -/
def setTable (m : Cells 16) (lo : Nat) (s : State) : State :=
  { s with mem := { s.mem with table := m }, tblLo := lo, tblValid := true }

/-- `MAX_COUNT` written and its mark set (10_state.md R26). -/
def setMaxCount (v : Word) (s : State) : State := { s with maxCount := v, vMaxc := true }

/-- `BEST_LAG` written and its mark set (10_state.md R26). -/
def setBestLag (v : Word) (s : State) : State := { s with bestLag := v, vBlag := true }

/-- `CORR_LAG` written and its mark set (10_state.md R26). -/
def setCorrLag (v : Word) (s : State) : State := { s with corrLag := v, vClag := true }

/-- The five elements a refinement writes, `RES_VALID` to 1 (43_refiner.md R158). -/
def setResult (u : Bool) (e0 e1 f : Word) (s : State) : State :=
  { s with resValid := true, undet := u, edge0 := e0, edge1 := e1, freq := f }

/-- The window reset (44_pipeline.md R171): every element of 10_state.md R20 but the fault record. -/
def windowReset (s : State) : State :=
  { s with
    latched := false, mem := { bits := [], sig := [], table := [] }, wrIdx := 0, tblValid := false, tblLo := 0,
    maxCount := 0#32, vMaxc := false, bestLag := 0#32, vBlag := false, corrLag := 0#32, vClag := false,
    resValid := false, undet := false, edge0 := 0#32, edge1 := 0#32, freq := 0#32 }

/-! ### Taking a fault -/

/-- The cause codes (60_exceptions.md R201). -/
def code : Cause → BitVec 4
  | .illegalCmd => 1#4
  | .regAccess => 2#4
  | .indexRange => 3#4
  | .windowFull => 4#4
  | .windowShort => 5#4
  | .unwritten => 6#4
  | .operandRange => 7#4

/-- The record keeps the first fault since hardware reset (60_exceptions.md R205). -/
def record (c : Cause) (cw : Word) (s : State) : State :=
  if s.errCode = 0#4 then { s with errCode := code c, errCmd := cw } else s

/-- `raise F(cw)`: "the whole of trap entry in the block" (60_exceptions.md R204). There is no return from it
(R213): the next command is executed like any other. -/
def raise (c : Cause) (cw : Word) (s : State) : State := respond (.fault c) (record c cw s)

/-- The command ends with a fault. -/
def raised (c : Cause) (cw : Word) (s : State) : Out := .next (raise c cw s)

/-- The command ends normally with response `Ok(v)` (00_scope.md R15, `respond v`). -/
def done (v : Word) (s : State) : Out := .next (respond (.ok v) s)

/-- The end of a command whose accesses may meet what 20_memory.md R62 rules out. -/
def finish : Except Fault State → Out
  | .ok s => .next s
  | .error f => .fault f

/-! ### Element accesses -/

/-- `MemRead(BITS:a, 32)`; every word holds a value, 0 if nothing else was written (20_memory.md R62, R63;
10_state.md R22). -/
def readBits (s : State) (a : Nat) : Except Fault Word :=
  if a < wordCount s.cfg then .ok ((lookup s.mem.bits a).getD 0#32) else .error (.outsideSpace .bits a)

/-- `MemWrite(BITS:a, 32, w)` (20_memory.md R62). -/
def writeBits (s : State) (a : Nat) (w : Word) : Except Fault State :=
  if a < wordCount s.cfg then .ok (setBits (putOrDrop s.mem.bits a w) s) else .error (.outsideSpace .bits a)

/-- `MemRead(SIG:i, 16)` (20_memory.md R62, R63). -/
def readSig (s : State) (i : Nat) : Except Fault Sample :=
  if i < windowSize s.cfg then
    match lookup s.mem.sig i with
    | some v => .ok v
    | none => .error (.noValue .sig i)
  else .error (.outsideSpace .sig i)

/-- The one write of `SIG` there is: sample number `WR_IDX`, which then counts it (44_pipeline.md R174). -/
def appendSig (s : State) (v : Sample) : Except Fault State :=
  if s.wrIdx < windowSize s.cfg then .ok (setSig (put s.mem.sig s.wrIdx v) (s.wrIdx + 1) s)
  else .error (.outsideSpace .sig s.wrIdx)

/-- `MemRead(TABLE:p, 16)` (20_memory.md R62, R63). -/
def readTable (s : State) (p : Nat) : Except Fault Count :=
  if p < halfWindow s.cfg then
    match lookup s.mem.table p with
    | some v => .ok v
    | none => .error (.noValue .table p)
  else .error (.outsideSpace .table p)

/-- A word with the bit at offset `o` replaced, the other 31 kept (41_bitstream.md R113). -/
def withBit (w : Word) (o : Nat) (v : Bool) : Word :=
  if v then w ||| (1#32 <<< o) else w &&& ~~~(1#32 <<< o)

/-- `bit(i)` (20_memory.md R64; 00_scope.md R15). -/
def readBit (s : State) (i : Nat) : Except Fault Bool := do
  let w ← readBits s (wordOfBit i)
  pure (w.getLsbD (offsetOfBit i))

/-- `Bitstream.set(i, v)`, "a read-modify-write on the enclosing word" (41_bitstream.md R113; 20_memory.md
R67). -/
def writeBit (s : State) (i : Nat) (v : Bool) : Except Fault State := do
  let w ← readBits s (wordOfBit i)
  writeBits s (wordOfBit i) (withBit w (offsetOfBit i) v)

/-! ### Instantiating a build -/

/-- A parameter set outside 00_scope.md R7 is refused when the model is instantiated, not at run time
(93_implementation_defined.md U7; 70_reset_and_hazards.md R234; log 10). -/
def instantiate (p : Params) : Except Refusal State :=
  if paramsOk p then .ok (State.resetOf p) else .error .badParameters

end Sys2Proof.Machine
end

