-- ==== Sys2Proof/Machine/Flags.lean ====
section
/-! DEFINITION. The one-bit state elements and their views (10_state.md R31, R32, R36), and the rule by which
the detector's latch moves (40_zerocross.md R102). -/

namespace Sys2Proof.Machine

/-- `val(smp) < ZC_LOW`, exactly: both sides times 32768 times the denominator (40_zerocross.md R102). -/
def belowBand (smp : Sample) : Bool := zcLowDen * raw smp < zcLowNum * sampleScale

/-- `val(smp) > ZC_HIGH`, exactly (40_zerocross.md R102). -/
def aboveBand (smp : Sample) : Bool := zcHighDen * raw smp > zcHighNum * sampleScale

/-- `zc_next(l, smp)` (40_zerocross.md R102): both comparisons strict, the band between them retains. -/
def zcNext (l : Bool) (smp : Sample) : Bool :=
  if belowBand smp then false else if aboveBand smp then true else l

/-- `WIN_FULL`, a view of `WR_IDX` (10_state.md R31). -/
def winFull (s : State) : Bool := s.wrIdx == windowSize s.cfg

/-- `STATUS.ERR`, a view of `ERR_CODE` (10_state.md R31). -/
def errFlag (s : State) : Bool := s.errCode != 0#4

/-- `STATUS` (10_state.md R31): bits 9 to 31 read 0. -/
def statusWord (s : State) : Word :=
  bitWord s.latched ||| bitWord (winFull s) <<< 1 ||| bitWord s.tblValid <<< 2 ||| bitWord s.vMaxc <<< 3 |||
    bitWord s.vBlag <<< 4 ||| bitWord s.vClag <<< 5 ||| bitWord s.resValid <<< 6 ||| bitWord s.undet <<< 7 |||
    bitWord (errFlag s) <<< 8

/-- `mark(reg)` (45_system.md R187): whether the register holds a value. Registers without a condition have
mark 1; the reserved number 11 has none, and no command asks for it. -/
def regMark (s : State) : Reg → Bool
  | .status => true
  | .err => true
  | .errCmd => true
  | .wrIdx => true
  | .maxCount => s.vMaxc
  | .bestLag => s.vBlag
  | .corrLag => s.vClag
  | .tblLo => s.tblValid
  | .edge0 => s.resValid
  | .edge1 => s.resValid
  | .freq => s.resValid
  | .reserved11 => false
  | .cfgRate => true
  | .cfgWindow => true
  | .cfgMinp => true
  | .cfgMaxp => true

/-- The value of a register (45_system.md R187; 10_state.md R30, R33). The reserved number 11 holds no state
(10_state.md R34). -/
def regValue (s : State) : Reg → Word
  | .status => statusWord s
  | .err => s.errCode.setWidth 32
  | .errCmd => s.errCmd
  | .wrIdx => BitVec.ofNat 32 s.wrIdx
  | .maxCount => s.maxCount
  | .bestLag => s.bestLag
  | .corrLag => s.corrLag
  | .tblLo => BitVec.ofNat 32 s.tblLo
  | .edge0 => s.edge0
  | .edge1 => s.edge1
  | .freq => s.freq
  | .reserved11 => 0#32
  | .cfgRate => BitVec.ofNat 32 s.cfg.sampleRate
  | .cfgWindow => BitVec.ofNat 32 (windowSize s.cfg)
  | .cfgMinp => BitVec.ofNat 32 s.cfg.minPeriod
  | .cfgMaxp => BitVec.ofNat 32 s.cfg.maxPeriod

end Sys2Proof.Machine
end

