-- ==== Sys2Proof/Machine/Bitstream.lean ====
section
/-! DEFINITION. Bitstream, the packed buffer and the autocorrelation engine: `BGET`, `BSET`, `WGET`, `ACORR`,
`TGET` (41_bitstream.md). -/

namespace Sys2Proof.Machine

/-! ### Bit and word access -/

/-- `BGET idx` (41_bitstream.md R111, R112). -/
def execBget (idx : Nat) (s : State) : Out :=
  if windowSize s.cfg ≤ idx then raised .indexRange (encode (.bget idx)) s
  else finish do
    let b ← readBit s idx
    pure (respond (.ok (bitWord b)) s)

/-- `BSET idx, v` (41_bitstream.md R113, R112). -/
def execBset (idx : Nat) (v : Bool) (s : State) : Out :=
  if windowSize s.cfg ≤ idx then raised .indexRange (encode (.bset idx v)) s
  else finish do
    let s' ← writeBit s idx v
    pure (respond (.ok 0#32) s')

/-- `WGET idx` (41_bitstream.md R115). -/
def execWget (idx : Nat) (s : State) : Out :=
  if wordCount s.cfg ≤ idx then raised .indexRange (encode (.wget idx)) s
  else finish do
    let w ← readBits s idx
    pure (respond (.ok w) s)

/-! ### The autocorrelation -/

/-- `popcount(w)`, in `[0, 32]` (00_scope.md R12). -/
def popcount (w : Word) : Nat := (List.range wordWidth).countP (fun t => w.getLsbD t)

/-- The word `s` of 41_bitstream.md R121: the 32 stream bits that stand `index` words and `shift` bits after
those of word `i`. With `shift = 0` no shift by 32 is performed and the next word is not read. -/
def shiftedWord (s : State) (index shift i : Nat) : Except Fault Word :=
  if shift = 0 then readBits s (index + i)
  else do
    let low ← readBits s (index + i)
    let high ← readBits s (index + i + 1)
    pure (low >>> shift ||| high <<< (wordWidth - shift))

/-- The sum of 41_bitstream.md R121 over the given words `i`. -/
def countWords (s : State) (index shift : Nat) : List Nat → Except Fault Nat
  | [] => pure 0
  | i :: rest => do
    let w ← readBits s i
    let x ← shiftedWord s index shift i
    let n ← countWords s index shift rest
    pure (popcount (w ^^^ x) + n)

/-- `count(pos)`, by the document's word-level procedure (41_bitstream.md R121; log 13). -/
def countAt (s : State) (pos : Nat) : Except Fault Nat :=
  countWords s (pos / wordWidth) (pos % wordWidth) (List.range (halfWordCount s.cfg))

/-- The lags `[start, HALF_WINDOW)` in ascending order (41_bitstream.md R117). -/
def lagsFrom (s : State) (start : Nat) : List Nat := List.range' start (halfWindow s.cfg - start)

/-- Each lag with its count, in the order given. -/
def countsAt (s : State) : List Nat → Except Fault (List (Nat × Nat))
  | [] => pure []
  | pos :: rest => do
    let c ← countAt s pos
    let cs ← countsAt s rest
    pure ((pos, c) :: cs)

/-- The running values of 41_bitstream.md R124: the largest count so far, and the first lag of the smallest
count so far, with that count. -/
structure Extremes where
  maxCount : Nat
  best : Option (Nat × Nat)
deriving DecidableEq, Repr

/-- One lag visited (41_bitstream.md R124): only a strictly larger count replaces the largest, only a strictly
smaller one the smallest. -/
def track (e : Extremes) (lagCount : Nat × Nat) : Extremes where
  maxCount := if e.maxCount < lagCount.2 then lagCount.2 else e.maxCount
  best :=
    match e.best with
    | none => some lagCount
    | some b => if lagCount.2 < b.2 then some lagCount else some b

/-- `max_count <- 0 ; min_count <- none ; best_lag <- none`, then every lag in order (41_bitstream.md R124). -/
def extremes (counts : List (Nat × Nat)) : Extremes := counts.foldl track { maxCount := 0, best := none }

/-- The table elements for the counts recorded (41_bitstream.md R118). -/
def tableOf (counts : List (Nat × Nat)) : Cells 16 := counts.map (fun lc => (lc.1, BitVec.ofNat 16 lc.2))

/-- `autocorrelate(start_lag)` (41_bitstream.md R118, R124) without its response: the table, `TBL_LO`,
`MAX_COUNT`, `BEST_LAG` and their marks. It answers the new state with `max_count` and `best_lag`. -/
def autocorrelate (start : Nat) (s : State) : Except Fault (State × Nat × Nat) := do
  let counts ← countsAt s (lagsFrom s start)
  match (extremes counts).best with
  | none => .error .emptyLagRange
  | some (lag, _) =>
    let maxCount := (extremes counts).maxCount
    pure (setBestLag (BitVec.ofNat 32 lag) (setMaxCount (BitVec.ofNat 32 maxCount)
      (setTable (tableOf counts) start s)), maxCount, lag)

/-- `ACORR idx` (41_bitstream.md R118). -/
def execAcorr (idx : Nat) (s : State) : Out :=
  if halfWindow s.cfg ≤ idx then raised .operandRange (encode (.acorr idx)) s
  else finish do
    let (s', maxCount, lag) ← autocorrelate idx s
    pure (respond (.ok (extremesWord maxCount lag)) s')

/-- `TGET idx` (41_bitstream.md R128): `IndexRange` is checked first. -/
def execTget (idx : Nat) (s : State) : Out :=
  if halfWindow s.cfg ≤ idx then raised .indexRange (encode (.tget idx)) s
  else if s.tblValid = false ∨ idx < s.tblLo then raised .unwritten (encode (.tget idx)) s
  else finish do
    let c ← readTable s idx
    pure (respond (.ok (countWord c)) s)

end Sys2Proof.Machine
end

