-- ==== Sys2Proof/Machine/Harmonic.lean ====
section
/-! DEFINITION. HarmonicCorrector: `HCORR` (42_harmonic.md). -/

namespace Sys2Proof.Machine

/-- `strong(t, max_count)`: `t ≤ HC_NUM/HC_DEN * max_count`, exactly (42_harmonic.md R142, R146). -/
def strong (t maxCount : Nat) : Bool := hcDen * t ≤ hcNum * maxCount

/-- Whether every echo `T[k + candidate]`, `k` in the list, is strong (42_harmonic.md R142). Every `k` is
evaluated; whether the block stops at the first failure "cannot be observed" (log 18). -/
def echoesStrong (s : State) (maxCount candidate : Nat) : List Nat → Except Fault Bool
  | [] => pure true
  | k :: ks => do
    let t ← readTable s (k + candidate)
    let rest ← echoesStrong s maxCount candidate ks
    pure (strong t.toNat maxCount && rest)

/-- The `k` a divisor is checked with: `[1, divisor)` (42_harmonic.md R142, R145.1). -/
def echoOffsets (divisor : Nat) : List Nat := List.range' 1 (divisor - 1)

/-- The loop over divisors from the given one down to 1; the first that passes wins, so the largest does
(42_harmonic.md R142; 90_conflicts.md C2). -/
def searchDivisor (s : State) (maxCount rawLag : Nat) : Nat → Except Fault Nat
  | 0 => pure rawLag
  | d + 1 => do
    let pass ← echoesStrong s maxCount (rawLag / (d + 1)) (echoOffsets (d + 1))
    if pass then pure (rawLag / (d + 1)) else searchDivisor s maxCount rawLag d

/-- `correct(max_count, raw_lag, T)` with `T` the table of the state (42_harmonic.md R142). The loop starts at
`max_divisor - 1` and is empty when `max_divisor ≤ 1` (R145.3, R147). -/
def correct (s : State) (maxCount rawLag : Nat) : Except Fault Nat :=
  searchDivisor s maxCount rawLag (rawLag / s.cfg.minPeriod - 1)

/-- `x[CORR_LAG] <- correct(x[MAX_COUNT], x[BEST_LAG], T) ; V_CLAG <- 1` (42_harmonic.md R141). It answers the
new state with the corrected lag. -/
def applyCorrection (s : State) : Except Fault (State × Nat) := do
  let c ← correct s s.maxCount.toNat s.bestLag.toNat
  pure (setCorrLag (BitVec.ofNat 32 c) s, c)

/-- The first precondition of `HCORR` (42_harmonic.md R143.1). -/
def correctionReady (s : State) : Bool :=
  s.vMaxc && s.vBlag && s.tblValid && decide (s.tblLo ≤ s.cfg.minPeriod)

/-- `HCORR` (42_harmonic.md R141, R143). -/
def execHcorr (s : State) : Out :=
  if correctionReady s = false then raised .unwritten (encode .hcorr) s
  else if halfWindow s.cfg ≤ s.bestLag.toNat then raised .operandRange (encode .hcorr) s
  else finish do
    let (s', c) ← applyCorrection s
    pure (respond (.ok (BitVec.ofNat 32 c)) s')

end Sys2Proof.Machine
end

