-- ==== Sys2Proof/Machine/Refiner.lean ====
section
/-! DEFINITION. SubSampleRefiner: `REFINE` (43_refiner.md). -/

namespace Sys2Proof.Machine

/-- `raw(SIG[i])` (43_refiner.md R153). -/
def rawAt (s : State) (i : Nat) : Except Fault Int := do
  let v ← readSig s i
  pure (raw v)

/-- The scan of 43_refiner.md R153 over the given number of indices, the first of them `i`: the first index
whose sample is positive while the one before is not. -/
def scanEdge (s : State) : Nat → Nat → Except Fault (Option Nat)
  | 0, _ => pure none
  | n + 1, i => do
    let y1 ← rawAt s i
    let y0 ← rawAt s (i - 1)
    if 0 < y1 ∧ y0 ≤ 0 then pure (some i) else scanEdge s n (i + 1)

/-- `next_edge(from)`: indices `[max(from, 1), WINDOW_SIZE)`, so index 0 is never an edge (43_refiner.md R153,
R155). -/
def nextEdge (s : State) (start : Nat) : Except Fault (Option Nat) :=
  scanEdge s (windowSize s.cfg - max start 1) (max start 1)

/-- `D`, the denominator of the period (43_refiner.md R157). -/
def periodDen (a0 a1 b0 b1 : Int) : Int := (a1 - a0) * (b1 - b0)

/-- `N`, the numerator of the period (43_refiner.md R157). -/
def periodNum (i1 i2 : Nat) (a0 a1 b0 b1 : Int) : Int :=
  ((i2 : Int) - (i1 : Int)) * (a1 - a0) * (b1 - b0) + (-b0) * (a1 - a0) - (-a0) * (b1 - b0)

/-- The result of a refinement (43_refiner.md R158). -/
inductive Refinement where
  | undetermined
  | frequency (edge0 edge1 q : Nat)
deriving DecidableEq, Repr

/-- The result for two edges and the samples at and before them: `N ≤ 0` is undetermined, else the frequency is
the floor of `SAMPLE_RATE * 4096 * D / N` (43_refiner.md R158, R159). -/
def interpolate (rate i1 i2 : Nat) (a0 a1 b0 b1 : Int) : Refinement :=
  if periodNum i1 i2 a0 a1 b0 b1 ≤ 0 then .undetermined
  else .frequency i1 i2
    (rate * 2 ^ freqFrac * (periodDen a0 a1 b0 b1).toNat / (periodNum i1 i2 a0 a1 b0 b1).toNat)

/-- The samples at and before two edges, and the result (43_refiner.md R157). -/
def refineEdges (s : State) (i1 i2 : Nat) : Except Fault Refinement := do
  let a0 ← rawAt s (i1 - 1)
  let a1 ← rawAt s i1
  let b0 ← rawAt s (i2 - 1)
  let b1 ← rawAt s i2
  pure (interpolate s.cfg.sampleRate i1 i2 a0 a1 b0 b1)

/-- `refine(signal, corrected_lag)`: the pseudocode of 43_refiner.md R151 from its second line on (R152, R154,
R164). -/
def refineAt (s : State) (lag : Nat) : Except Fault Refinement :=
  if windowSize s.cfg ≤ lag then pure .undetermined
  else do
    match ← nextEdge s 0 with
    | none => pure .undetermined
    | some i1 =>
      match ← nextEdge s (lag - 1) with
      | none => pure .undetermined
      | some i2 => refineEdges s i1 i2

/-- `result <- ...`, response included (43_refiner.md R158). -/
def writeResult : Refinement → State → State
  | .undetermined, s => respond (.ok 0#32) (setResult true 0#32 0#32 0#32 s)
  | .frequency i1 i2 q, s =>
    respond (.ok (BitVec.ofNat 32 q))
      (setResult false (BitVec.ofNat 32 i1) (BitVec.ofNat 32 i2) (BitVec.ofNat 32 q) s)

/-- The refinement of `x[CORR_LAG]` (43_refiner.md R151). -/
def applyRefinement (s : State) : Except Fault State := do
  let r ← refineAt s s.corrLag.toNat
  pure (writeResult r s)

/-- `REFINE` (43_refiner.md R151, R162). -/
def execRefine (s : State) : Out :=
  if winFull s = false then raised .windowShort (encode .refine) s
  else if s.vClag = false then raised .unwritten (encode .refine) s
  else if s.corrLag = 0#32 then raised .operandRange (encode .refine) s
  else finish (applyRefinement s)

end Sys2Proof.Machine
end

