-- ==== Sys2Proof/Machine/Pipeline.lean ====
section
/-! DEFINITION. Pipeline: `WRST`, `PUSH`, `RUN` (44_pipeline.md). -/

namespace Sys2Proof.Machine

/-- `WRST` (44_pipeline.md R171). -/
def execWrst (s : State) : Out := done 0#32 (windowReset s)

/-- What `PUSH` writes: the latch, the sample, the stream bit, the count of samples (44_pipeline.md R174). -/
def takeSample (smp : Sample) (s : State) : Except Fault State := do
  let b := zcNext s.latched smp
  let s' ← writeBit (setLatched b s) s.wrIdx b
  appendSig s' smp

/-- `PUSH smp` (44_pipeline.md R174, R175). -/
def execPush (smp : Sample) (s : State) : Out :=
  if winFull s then raised .windowFull (encode (.push smp)) s
  else finish do
    let s' ← takeSample smp s
    pure (respond (.ok (bitWord (zcNext s.latched smp))) s')

/-- `RUN` (44_pipeline.md R177, R178): the three steps inside one command, with the response of the last. -/
def execRun (s : State) : Out :=
  if winFull s = false then raised .windowShort (encode .run) s
  else finish do
    let (s1, _) ← autocorrelate s.cfg.minPeriod s
    let (s2, _) ← applyCorrection s1
    applyRefinement s2

end Sys2Proof.Machine
end

