-- ==== Sys2Proof/Machine/System.lean ====
section
/-! DEFINITION. The system commands: `NOP`, `RDR`, `LDR` (45_system.md). -/

namespace Sys2Proof.Machine

/-- `NOP` (45_system.md R186). -/
def execNop (s : State) : Out := done 0#32 s

/-- `RDR reg` (45_system.md R187, R188). -/
def execRdr (reg : Reg) (s : State) : Out :=
  if reg = .reserved11 then raised .regAccess (encode (.rdr reg)) s
  else if regMark s reg = false then raised .unwritten (encode (.rdr reg)) s
  else done (regValue s reg) s

/-- The register an `LDR` writes, with its mark (45_system.md R191). No other register is written by `LDR`. -/
def loadRegister (reg : Reg) (v : Word) (s : State) : State :=
  match reg with
  | .maxCount => setMaxCount v s
  | .bestLag => setBestLag v s
  | .corrLag => setCorrLag v s
  | _ => s

/-- `LDR reg, imm24` (45_system.md R191). -/
def execLdr (reg : Reg) (imm : BitVec 24) (s : State) : Out :=
  if loadable reg = false then raised .regAccess (encode (.ldr reg imm)) s
  else done 0#32 (loadRegister reg (immWord imm) s)

end Sys2Proof.Machine
end

