-- ==== Sys2Proof/Machine/ZeroCross.lean ====
section
/-! DEFINITION. ZeroCross, the hysteresis detector: `ZC` (40_zerocross.md). -/

namespace Sys2Proof.Machine

/-- `ZC smp` (40_zerocross.md R101). -/
def execZc (smp : Sample) (s : State) : Out :=
  done (bitWord (zcNext s.latched smp)) (setLatched (zcNext s.latched smp) s)

end Sys2Proof.Machine
end

