-- ==== Sys2Proof/Machine/Dispatch.lean ====
section
/-! DEFINITION. Which meaning each command has: one arm per constructor of `Instr` (30_encoding.md R86). -/

namespace Sys2Proof.Machine

def exec (i : Instr) (s : State) : Host.Outcome State Fault Refusal :=
  match i with
  | .nop => Sys2Proof.Machine.execNop s
  | .wrst => Sys2Proof.Machine.execWrst s
  | .zc smp => Sys2Proof.Machine.execZc smp s
  | .push smp => Sys2Proof.Machine.execPush smp s
  | .bget idx => Sys2Proof.Machine.execBget idx s
  | .bset idx v => Sys2Proof.Machine.execBset idx v s
  | .acorr idx => Sys2Proof.Machine.execAcorr idx s
  | .tget idx => Sys2Proof.Machine.execTget idx s
  | .hcorr => Sys2Proof.Machine.execHcorr s
  | .refine => Sys2Proof.Machine.execRefine s
  | .run => Sys2Proof.Machine.execRun s
  | .rdr reg => Sys2Proof.Machine.execRdr reg s
  | .ldr reg imm => Sys2Proof.Machine.execLdr reg imm s
  | .wget idx => Sys2Proof.Machine.execWget idx s

end Sys2Proof.Machine
end

