-- ==== Sys2Proof/Machine/Port.lean ====
section
/-! DEFINITION. The command port (30_encoding.md R80) and the reset input (70_reset_and_hazards.md R230): how
the host's next event is taken, and what the port's signals carry. -/

namespace Sys2Proof.Machine

/-- The host's next event and the state without it. -/
def takeEvent (s : State) : Option (HostEvent × State) :=
  match s.pending with
  | [] => none
  | e :: rest => some (e, { s with pending := rest })

/-- The host puts an event before those it has decided on. -/
def present (e : HostEvent) (s : State) : State := { s with pending := e :: s.pending }

/-- Hardware reset (70_reset_and_hazards.md R230): the block is in its reset state, and no response stands at the port
(log 4). The parameters and what the host does next are no state of the block and stay (log 3, log 6). -/
def hardReset (s : State) : State := { s with toBlock := Block.reset, rsp := none }

/-- A word that is no command faults `IllegalCmd` and has no other effect (30_encoding.md R89; 60_exceptions.md
R204, R206). -/
def execIllegal (cw : Word) (s : State) : Out := raised .illegalCmd cw s

/-- Nothing presented: the block stays as it is (log 5). -/
def idle (s : State) : Out := .next s

/-- The command word of an instruction given as a number of `nbits` bits. -/
def wordOfBits (nbits w : Nat) : Word := BitVec.ofNat 32 (w % 2 ^ nbits)

/-! ### The signals of the port (30_encoding.md R80) -/

/-- `cmd_ready`: "the block raises cmd_ready only when idle", and between two steps it is. -/
def cmdReady (_ : State) : Bool := true

/-- `cmd_valid` -/
def cmdValid (s : State) : Bool :=
  match s.pending with
  | .cmd _ :: _ => true
  | _ => false

/-- `cmd_word`, while `cmd_valid` is 1 -/
def cmdWord (s : State) : Option Word :=
  match s.pending with
  | .cmd cw :: _ => some cw
  | _ => none

/-- `rst` -/
def rstAsserted (s : State) : Bool :=
  match s.pending with
  | .rst :: _ => true
  | _ => false

/-- `rsp_valid` -/
def rspValid (s : State) : Bool := s.rsp.isSome

/-- `rsp_fault`, while `rsp_valid` is 1 -/
def rspFault : Response → Bool
  | .ok _ => false
  | .fault _ => true

/-- `rsp_data`, while `rsp_valid` is 1: the data, or the cause code zero extended -/
def rspData : Response → Word
  | .ok data => data
  | .fault c => (code c).setWidth 32

end Sys2Proof.Machine
end

