-- ==== Sys2Proof/Machine/Step.lean ====
section
/-! DEFINITION. One step: the host's next event (20_memory.md R71; 30_encoding.md R80, R88; log 3). -/

namespace Sys2Proof.Machine

/-- One step. A command word is decoded and executed whole; a word that is no command faults; a reset gives the
reset state; with no event the block is idle. -/
def step (s : State) : Host.Outcome State Fault Refusal :=
  match takeEvent s with
  | none => idle s
  | some (.rst, s') => .next (hardReset s')
  | some (.cmd cw, s') =>
    match decode cw with
    | .ok i => exec i s'
    | .error _ => execIllegal cw s'

/-- The state in which the host presents the given instruction as its very next event. The block fetches
nothing (20_memory.md R77); this stands for the host's issuing the word (log 3). -/
def State.withFetchWord (s : State) (nbits w : Nat) : State := present (.cmd (wordOfBits nbits w)) s

end Sys2Proof.Machine
end

