-- ==== Sys2Proof/Safety.lean ====
section
/-! DEFINITION. The words claims use: the invariant of the states a run can reach, the spec's own bit-level and
edge-level readings of the memories, which fault conditions a command meets, and what taking a fault leaves. -/

namespace Sys2Proof.Machine

/-! ### The invariant -/

/-- The memories have their canonical form and `BITS` lists words of the buffer only (20_memory.md R60). -/
abbrev MemoryInv (s : State) : Prop := s.mem.wf ∧ ∀ c ∈ s.mem.bits, c.1 < wordCount s.cfg

/-- `SIG[i]` holds a value exactly when `i < WR_IDX`, and `WR_IDX` is in `[0, WINDOW_SIZE]` (10_state.md R23,
R24). -/
abbrev SamplesInv (s : State) : Prop :=
  s.wrIdx ≤ windowSize s.cfg ∧ s.mem.sig.map Prod.fst = List.range s.wrIdx

/-- `TABLE[p]` holds a value exactly when `TBL_VALID = 1` and `TBL_LO ≤ p < HALF_WINDOW`; every count is at most
`CMP_BITS`; a table comes with `MAX_COUNT` and `BEST_LAG` (10_state.md R25, R26). -/
abbrev TableInv (s : State) : Prop :=
  (s.tblValid = false → s.mem.table = [] ∧ s.tblLo = 0) ∧
  (s.tblValid = true →
    s.tblLo < halfWindow s.cfg ∧
    s.mem.table.map Prod.fst = List.range' s.tblLo (halfWindow s.cfg - s.tblLo) ∧
    (∀ c ∈ s.mem.table, c.2.toNat ≤ cmpBits s.cfg) ∧ s.vMaxc = true ∧ s.vBlag = true)

/-- A hand-over register whose mark is 0 is 0, and none exceeds what an `LDR` can load (10_state.md R26, R30,
R36). -/
abbrev HandOverInv (s : State) : Prop :=
  (s.vMaxc = false → s.maxCount = 0#32) ∧ (s.vBlag = false → s.bestLag = 0#32) ∧
  (s.vClag = false → s.corrLag = 0#32) ∧
  s.maxCount.toNat < 2 ^ 24 ∧ s.bestLag.toNat < 2 ^ 24 ∧ s.corrLag.toNat < 2 ^ 24

/-- The result registers (10_state.md R27, R28): without a result, or with an undetermined one, they are 0; a
determined one has `1 ≤ EDGE0`, `EDGE0 + 2 ≤ EDGE1 < WINDOW_SIZE` and `1 ≤ FREQ < SAMPLE_RATE * 4096`. A result
comes from a full window and a corrected lag (43_refiner.md R162). -/
abbrev ResultInv (s : State) : Prop :=
  (s.resValid = false → s.undet = false) ∧
  (s.resValid = false ∨ s.undet = true → s.edge0 = 0#32 ∧ s.edge1 = 0#32 ∧ s.freq = 0#32) ∧
  (s.resValid = true → s.wrIdx = windowSize s.cfg ∧ s.vClag = true) ∧
  (s.resValid = true ∧ s.undet = false →
    1 ≤ s.edge0.toNat ∧ s.edge0.toNat + 2 ≤ s.edge1.toNat ∧ s.edge1.toNat < windowSize s.cfg ∧
    1 ≤ s.freq.toNat ∧ s.freq.toNat < s.cfg.sampleRate * 4096)

/-- Codes 8 to 15 are never held, and without a fault the recorded word is 0 (60_exceptions.md R201; 10_state.md
R30). -/
abbrev RecordInv (s : State) : Prop := s.errCode.toNat ≤ 7 ∧ (s.errCode = 0#4 → s.errCmd = 0#32)

/-- What holds of every state a run of an admitted build reaches. -/
structure Inv (s : State) : Prop where
  params : paramsOk s.cfg
  memory : MemoryInv s
  samples : SamplesInv s
  table : TableInv s
  handOver : HandOverInv s
  result : ResultInv s
  record : RecordInv s

/-! ### The memories as the rules read them -/

/-- `bit(i)` of 20_memory.md R64, as a plain value. -/
def streamBit (s : State) (i : Nat) : Bool := ((lookup s.mem.bits (i / 32)).getD 0#32).getLsbD (i % 32)

/-- `count(pos)` at bit level (41_bitstream.md R120). -/
def bitCount (s : State) (pos : Nat) : Nat :=
  (List.range (cmpBits s.cfg)).countP (fun n => streamBit s n != streamBit s (n + pos))

/-- `raw(SIG[i])` as a plain value, for an element that holds one (43_refiner.md R153). -/
def sampleAt (s : State) (i : Nat) : Int := raw ((lookup s.mem.sig i).getD 0#16)

/-- `T[p]` as a plain value, for an element that holds one (42_harmonic.md R142). -/
def tableAt (s : State) (p : Nat) : Nat := ((lookup s.mem.table p).getD 0#16).toNat

/-- An edge of the window (43_refiner.md R153). -/
abbrev IsEdge (s : State) (i : Nat) : Prop :=
  1 ≤ i ∧ i < windowSize s.cfg ∧ 0 < sampleAt s i ∧ sampleAt s (i - 1) ≤ 0

/-- `i` is the smallest edge with `max(start, 1) ≤ i` (43_refiner.md R153). -/
abbrev FirstEdge (s : State) (start i : Nat) : Prop :=
  IsEdge s i ∧ max start 1 ≤ i ∧ ∀ j < i, max start 1 ≤ j → ¬ IsEdge s j

/-- There is no edge `i` with `max(start, 1) ≤ i` (43_refiner.md R153). -/
abbrev NoEdge (s : State) (start : Nat) : Prop :=
  ∀ j < windowSize s.cfg, max start 1 ≤ j → ¬ IsEdge s j

/-- `D` of 43_refiner.md R157 for the edges `i1` and `i2`. -/
def periodD (s : State) (i1 i2 : Nat) : Int :=
  (sampleAt s i1 - sampleAt s (i1 - 1)) * (sampleAt s i2 - sampleAt s (i2 - 1))

/-- `N` of 43_refiner.md R157 for the edges `i1` and `i2`. -/
def periodN (s : State) (i1 i2 : Nat) : Int :=
  ((i2 : Int) - (i1 : Int)) * (sampleAt s i1 - sampleAt s (i1 - 1)) * (sampleAt s i2 - sampleAt s (i2 - 1)) +
    (-sampleAt s (i2 - 1)) * (sampleAt s i1 - sampleAt s (i1 - 1)) -
    (-sampleAt s (i1 - 1)) * (sampleAt s i2 - sampleAt s (i2 - 1))

/-- Every echo of a divisor is strong: the counts at the lags `k + raw_lag div divisor`, `k` in `[1, divisor)`, are
at most 3/20 of `max_count` (42_harmonic.md R142, R146). -/
abbrev EchoesPass (s : State) (divisor : Nat) : Prop :=
  ∀ k < divisor, 1 ≤ k → 20 * tableAt s (k + s.bestLag.toNat / divisor) ≤ 3 * s.maxCount.toNat

/-! ### Faults -/

/-- The fault conditions of 60_exceptions.md R201, each for the commands its row names. `IllegalCmd` is met by
words, not by commands. -/
def meets (i : Instr) (s : State) (c : Cause) : Bool :=
  match c, i with
  | .regAccess, .rdr reg => reg == .reserved11
  | .regAccess, .ldr reg _ => !loadable reg
  | .indexRange, .bget idx => decide (windowSize s.cfg ≤ idx)
  | .indexRange, .bset idx _ => decide (windowSize s.cfg ≤ idx)
  | .indexRange, .wget idx => decide (wordCount s.cfg ≤ idx)
  | .indexRange, .tget idx => decide (halfWindow s.cfg ≤ idx)
  | .windowFull, .push _ => decide (s.wrIdx = windowSize s.cfg)
  | .windowShort, .refine => decide (s.wrIdx ≠ windowSize s.cfg)
  | .windowShort, .run => decide (s.wrIdx ≠ windowSize s.cfg)
  | .unwritten, .rdr reg => !regMark s reg
  | .unwritten, .tget idx => !s.tblValid || decide (idx < s.tblLo)
  | .unwritten, .hcorr => !s.vMaxc || !s.vBlag || !s.tblValid || decide (s.cfg.minPeriod < s.tblLo)
  | .unwritten, .refine => !s.vClag
  | .operandRange, .acorr idx => decide (halfWindow s.cfg ≤ idx)
  | .operandRange, .hcorr => decide (halfWindow s.cfg ≤ s.bestLag.toNat)
  | .operandRange, .refine => s.corrLag == 0#32
  | _, _ => false

/-- The answer is that of `raise c(cw)` in state `s` (60_exceptions.md R204): the response is the fault, the record
takes code and word if it is empty, and nothing else changes. -/
def FaultsWith (c : Cause) (cw : Word) (s : State) (o : Out) : Prop :=
  ∃ t, o = .next t ∧ t.rsp = some (.fault c) ∧
    (s.errCode = 0#4 → t.errCode = code c ∧ t.errCmd = cw) ∧
    (s.errCode ≠ 0#4 → t.errCode = s.errCode ∧ t.errCmd = s.errCmd) ∧
    { t with rsp := s.rsp, errCode := s.errCode, errCmd := s.errCmd } = s

/-- The command ends normally, with some response `Ok(v)`. -/
def Succeeds (o : Out) : Prop := ∃ t v, o = .next t ∧ t.rsp = some (.ok v)

/-! ### Sequences of commands -/

/-- The host issues commands one after another, each after the response to the one before (30_encoding.md R95). -/
def issue : List Instr → State → Out
  | [], s => .next s
  | i :: rest, s =>
    match exec i s with
    | .next s' => issue rest s'
    | .fault f => .fault f
    | .refused r => .refused r

end Sys2Proof.Machine
end

