-- ==== Sys2Proof/Certificates/Slice0/Obligations.lean ====
section
/-! DEFINITION. The statements for the provers, each a rule of spec/ or a consequence of some. "Inv s" is the
invariant of Safety.lean: it holds at reset and every step keeps it, which are statements of their own. -/

open Sys2Proof Sys2Proof.Machine

/-! ### Encoding -/

/-- Decoding the word of a well-formed command gives the command back (30_encoding.md R82 to R88). -/
def Obligations.DecodeOfEncode : Prop := ∀ i : Instr, wellFormed i = true → decode (encode i) = .ok i

/-- A word that decodes is the word of the command it decodes to, and that command is well formed: every word is
exactly one command or illegal (30_encoding.md R88). -/
def Obligations.EncodeOfDecode : Prop :=
  ∀ (cw : Word) (i : Instr), decode cw = .ok i → encode i = cw ∧ wellFormed i = true

/-- The opcode table of 30_encoding.md R86: its 14 rows, that they are disjoint, that a word selects the command of
a row exactly when its fixed bits have the row's values, and that a word that matches no row is illegal. -/
def Obligations.WordSelectsCommandOfItsRow : Prop :=
  opcodeTable.map (fun r => (r.mnemonic, r.pattern, r.mask)) =
    [("NOP", 0x00000000#32, 0xFFFFFFFF#32), ("WRST", 0x10000000#32, 0xFFFFFFFF#32),
     ("ZC", 0x20000000#32, 0xFFFF0000#32), ("PUSH", 0x30000000#32, 0xFFFF0000#32),
     ("BGET", 0x40000000#32, 0xFFFF0000#32), ("BSET", 0x50000000#32, 0xFFFE0000#32),
     ("ACORR", 0x60000000#32, 0xFFFF0000#32), ("TGET", 0x70000000#32, 0xFFFF0000#32),
     ("HCORR", 0x80000000#32, 0xFFFFFFFF#32), ("REFINE", 0x90000000#32, 0xFFFFFFFF#32),
     ("RUN", 0xA0000000#32, 0xFFFFFFFF#32), ("RDR", 0xB0000000#32, 0xF0FFFFFF#32),
     ("LDR", 0xC0000000#32, 0xF0000000#32), ("WGET", 0xD0000000#32, 0xFFFF0000#32)] ∧
  (∀ (cw : Word) (r r' : Row), r ∈ opcodeTable → r' ∈ opcodeTable → cw &&& r.mask = r.pattern →
    cw &&& r'.mask = r'.pattern → r = r') ∧
  (∀ (cw : Word) (r : Row), r ∈ opcodeTable →
    (cw &&& r.mask = r.pattern ↔ ∃ i, decode cw = .ok i ∧ rowOf i = r)) ∧
  ∀ cw : Word, (∀ r ∈ opcodeTable, cw &&& r.mask ≠ r.pattern) → ∃ e, decode cw = .error e

/-- Which words are illegal, field by field, and that an illegal word faults `IllegalCmd` and has no other effect
(30_encoding.md R89). -/
def Obligations.IllegalWordsFault : Prop :=
  (∀ cw : Word,
    (∃ e, decode cw = .error e) ↔
      (opField cw = 0xE#4 ∨ opField cw = 0xF#4 ∨
       (opField cw ∈ [0x0#4, 0x1#4, 0x8#4, 0x9#4, 0xA#4] ∧ cw.extractLsb' 0 28 ≠ 0#28) ∨
       (opField cw ∈ [0x2#4, 0x3#4] ∧ cw.extractLsb' 16 12 ≠ 0#12) ∨
       (opField cw ∈ [0x4#4, 0x5#4, 0x6#4, 0x7#4, 0xD#4] ∧ cw.extractLsb' 17 11 ≠ 0#11) ∨
       (opField cw ∈ [0x4#4, 0x6#4, 0x7#4, 0xD#4] ∧ cw.getLsbD 16 = true) ∨
       (opField cw = 0xB#4 ∧ cw.extractLsb' 0 24 ≠ 0#24))) ∧
  ∀ (s : State) (cw : Word) (rest : List HostEvent), s.pending = .cmd cw :: rest → (∃ e, decode cw = .error e) →
    FaultsWith .illegalCmd cw { s with pending := rest } (step s)

/-- A few words of 30_encoding.md R93 and 95_test_vectors.md V-DEC decode to the commands they are written for, and two
illegal words are refused: `0xE0000000` of V-DEC and `0x0000BEEF` of program P4 (30_encoding.md R89). The names of the
two errors are the model's choice (log 14). -/
def Obligations.WordsOfTheSpecDecode : Prop :=
  decode 0x00000000#32 = .ok .nop ∧ decode 0x10000000#32 = .ok .wrst ∧
  decode 0x2000FFFF#32 = .ok (.zc (BitVec.ofInt 16 (-1))) ∧ decode 0x4000007F#32 = .ok (.bget 127) ∧
  decode 0x5001007F#32 = .ok (.bset 127 true) ∧ decode 0x60000004#32 = .ok (.acorr 4) ∧
  decode 0xA0000000#32 = .ok .run ∧ decode 0xBF000000#32 = .ok (.rdr .cfgMaxp) ∧
  decode 0xC4FFFFFF#32 = .ok (.ldr .maxCount 16777215#24) ∧
  decode 0x0000BEEF#32 = .error (.mustBeZero "NOP") ∧ decode 0xE0000000#32 = .error .reservedOpcode

/-! ### Steps -/

/-- A step runs the decoded command: when the next event is a word that decodes to `i`, the step is `exec i` on the
state without that event, and nothing is added around it. The second clause says the same of `withFetchWord`.
The event list is the model's choice (log 3). -/
def Obligations.StepRunsDecodedCommand : Prop :=
  (∀ (s : State) (cw : Word) (rest : List HostEvent) (i : Instr), s.pending = .cmd cw :: rest →
    decode cw = .ok i → step s = exec i { s with pending := rest }) ∧
  ∀ (s : State) (cw : Word) (i : Instr), decode cw = .ok i → step (s.withFetchWord 32 cw.toNat) = exec i s

/-- A step that answers a next state takes exactly the first of the host's events: one command at a time, in the
order issued (20_memory.md R71, R72; the event list is the model's choice, log 3). -/
def Obligations.StepTakesOneEvent : Prop :=
  ∀ s t : State, step s = .next t → t.pending = s.pending.tail

/-- With no event the block stays as it is (the model's choice, log 5). -/
def Obligations.IdleWithoutEvents : Prop := ∀ s : State, s.pending = [] → step s = .next s

/-- Hardware reset (70_reset_and_hazards.md R230): every element has the value of the column "after hardware reset"
of 10_state.md R40, the parameters stay, and the state differs from the one `WRST` leaves only in the fault
record (and in the response: that none stands at the port after a reset is the model's choice, log 4; the event list
is log 3). -/
def Obligations.ResetGivesResetState : Prop :=
  ∀ (s : State) (rest : List HostEvent), s.pending = .rst :: rest → ∃ t, step s = .next t ∧
    t.latched = false ∧ (∀ a < wordCount s.cfg, readBits t a = .ok 0#32) ∧ t.wrIdx = 0 ∧
    (∀ i < windowSize s.cfg, readSig t i = .error (.noValue .sig i)) ∧ t.tblValid = false ∧ t.tblLo = 0 ∧
    (∀ p < halfWindow s.cfg, readTable t p = .error (.noValue .table p)) ∧
    t.maxCount = 0#32 ∧ t.bestLag = 0#32 ∧ t.corrLag = 0#32 ∧ t.vMaxc = false ∧ t.vBlag = false ∧
    t.vClag = false ∧ t.resValid = false ∧ t.undet = false ∧ t.edge0 = 0#32 ∧ t.edge1 = 0#32 ∧ t.freq = 0#32 ∧
    t.errCode = 0#4 ∧ t.errCmd = 0#32 ∧ t.cfg = s.cfg ∧ t.pending = rest ∧ t.rsp = none ∧
    ∃ u, exec .wrst { s with pending := rest } = .next u ∧
      { u with errCode := 0#4, errCmd := 0#32, rsp := t.rsp } = t

/-! ### The invariant -/

/-- The reset state of every admitted build meets the invariant (70_reset_and_hazards.md R230). -/
def Obligations.ResetMeetsInvariant : Prop := ∀ p : Params, paramsOk p → Inv (State.resetOf p)

/-- HEADLINE. From every state that meets the invariant, a step leads to a state that meets it: the memories keep
their canonical form and hold values exactly where the spec says, no register leaves its bounds, a value without
its mark is 0, a determined result is a frequency between 1/4096 Hz and the sample rate between two edges at
least 2 apart, and the fault record stays legal (10_state.md R20 to R30, R36; 43_refiner.md R160, R161). -/
def Obligations.StepKeepsInvariant : Prop := ∀ s t : State, Inv s → step s = .next t → Inv t

/-- From every state that meets the invariant the block goes on: no event of the host stops it, whatever the word
(70_reset_and_hazards.md R246; 20_memory.md R62; 60_exceptions.md R207). -/
def Obligations.InvariantStatesNeverStop : Prop := ∀ s : State, Inv s → ∃ t, step s = .next t

/-- A build's parameters are checked when it is instantiated: the admitted sets give the reset state, the others are
refused (70_reset_and_hazards.md R234; log 10). -/
def Obligations.BuildChecksParameters : Prop :=
  ∀ p : Params,
    ((16 ≤ p.sampleRate ∧ p.sampleRate < 2 ^ 20 ∧ 1 ≤ p.minPeriod ∧ p.minPeriod ≤ p.maxPeriod ∧
        2 * p.minPeriod < windowSize p ∧ 33 ≤ p.maxPeriod ∧ p.maxPeriod ≤ 32768) →
      instantiate p = .ok (State.resetOf p)) ∧
    (¬ (16 ≤ p.sampleRate ∧ p.sampleRate < 2 ^ 20 ∧ 1 ≤ p.minPeriod ∧ p.minPeriod ≤ p.maxPeriod ∧
        2 * p.minPeriod < windowSize p ∧ 33 ≤ p.maxPeriod ∧ p.maxPeriod ≤ 32768) →
      instantiate p = .error .badParameters)

/-! ### Faults -/

/-- The causes have the codes 1 to 7 of the table of 60_exceptions.md R201, which is what the record takes and what the
port shows (30_encoding.md R80). A command that meets no fault condition of R201 ends normally; one that meets some
faults with the one of the lowest code, and nothing but the record and the response changes (R204, R206). -/
def Obligations.FaultIsLowestCodeMet : Prop :=
  (code .illegalCmd = 1#4 ∧ code .regAccess = 2#4 ∧ code .indexRange = 3#4 ∧ code .windowFull = 4#4 ∧
    code .windowShort = 5#4 ∧ code .unwritten = 6#4 ∧ code .operandRange = 7#4) ∧
  (∀ c, rspFault (.fault c) = true ∧ (rspData (.fault c)).toNat = (code c).toNat) ∧
  (∀ v, rspFault (.ok v) = false ∧ rspData (.ok v) = v) ∧
  ∀ (i : Instr) (s : State), Inv s →
    ((∀ c, meets i s c = false) → Succeeds (exec i s)) ∧
    ∀ c, meets i s c = true → (∀ c', meets i s c' = true → (code c).toNat ≤ (code c').toNat) →
      FaultsWith c (encode i) s (exec i s)

/-- While a fault is recorded, no event but a hardware reset changes the record (60_exceptions.md R205). -/
def Obligations.RecordKeepsFirstFault : Prop :=
  ∀ s t : State, s.errCode ≠ 0#4 → s.pending.head? ≠ some .rst → step s = .next t →
    t.errCode = s.errCode ∧ t.errCmd = s.errCmd

/-- "every command behaves the same whether or not a fault is recorded" (60_exceptions.md R205): apart from the
record itself, which only `RDR` of `STATUS`, `ERR` and `ERR_CMD` shows. -/
def Obligations.RecordHasNoEffect : Prop :=
  ∀ (i : Instr) (s t : State) (c : BitVec 4) (w : Word),
    i ≠ .rdr .status → i ≠ .rdr .err → i ≠ .rdr .errCmd → exec i s = .next t →
    ∃ t', exec i { s with errCode := c, errCmd := w } = .next t' ∧
      { t' with errCode := t.errCode, errCmd := t.errCmd } = t

/-! ### ZeroCross -/

/-- `ZC` (40_zerocross.md R101, R102): low below -3276, high above 0, else the state it had; the latch and the
response are the only things written. The starting state is low. -/
def Obligations.ZcMovesLatch : Prop :=
  (∀ p : Params, (State.resetOf p).latched = false) ∧
  ∀ (smp : Sample) (s : State),
    (smp.toInt ≤ -3277 →
      exec (.zc smp) s = .next { s with latched := false, rsp := some (.ok 0#32) }) ∧
    (1 ≤ smp.toInt →
      exec (.zc smp) s = .next { s with latched := true, rsp := some (.ok 1#32) }) ∧
    (-3276 ≤ smp.toInt → smp.toInt ≤ 0 →
      exec (.zc smp) s = .next { s with rsp := some (.ok (if s.latched then 1#32 else 0#32)) })

/-- Hysteresis (40_zerocross.md R103): once high, high until a sample below -1/10; once low, low until a sample above
0; samples in the band change nothing; a signal whose samples are all at most 0 keeps the stream at 0. -/
def Obligations.DetectorHasHysteresis : Prop :=
  ∀ (smps : List Sample) (s : State), ∃ t, issue (smps.map .zc) s = .next t ∧
    (s.latched = true → (∀ x ∈ smps, -3276 ≤ x.toInt) → t.latched = true) ∧
    (s.latched = false → (∀ x ∈ smps, x.toInt ≤ 0) → t.latched = false) ∧
    ((∀ x ∈ smps, -3276 ≤ x.toInt ∧ x.toInt ≤ 0) → t.latched = s.latched)

/-! ### Bitstream -/

/-- `BGET` (41_bitstream.md R111, R112). -/
def Obligations.BgetReadsBit : Prop :=
  ∀ (idx : Nat) (s : State), paramsOk s.cfg →
    (idx < windowSize s.cfg →
      exec (.bget idx) s = .next { s with rsp := some (.ok (if streamBit s idx then 1#32 else 0#32)) }) ∧
    (windowSize s.cfg ≤ idx → FaultsWith .indexRange (encode (.bget idx)) s (exec (.bget idx) s))

/-- `BSET` (41_bitstream.md R113): the one bit of the one word, and nothing else. The word stored to is number
`wordOfBit idx`. -/
def Obligations.BsetWritesOneBit : Prop :=
  ∀ (idx : Nat) (v : Bool) (s : State), Inv s →
    (idx < windowSize s.cfg →
      ∃ t w w', exec (.bset idx v) s = .next t ∧ t.rsp = some (.ok 0#32) ∧
        readBits s (wordOfBit idx) = .ok w ∧ readBits t (wordOfBit idx) = .ok w' ∧
        (∀ o, w'.getLsbD o = if o = offsetOfBit idx then v else w.getLsbD o) ∧
        (∀ a, a ≠ wordOfBit idx → readBits t a = readBits s a) ∧
        (∀ i, readSig t i = readSig s i) ∧ (∀ p, readTable t p = readTable s p) ∧
        { t with mem := s.mem, rsp := s.rsp } = s) ∧
    (windowSize s.cfg ≤ idx → FaultsWith .indexRange (encode (.bset idx v)) s (exec (.bset idx v) s))

/-- The bit round trip (41_bitstream.md R114). -/
def Obligations.BitRoundTrip : Prop :=
  ∀ (i : Nat) (v : Bool) (s : State), Inv s → i < windowSize s.cfg →
    ∃ t, exec (.bset i v) s = .next t ∧
      (∃ u, exec (.bget i) t = .next u ∧ u.rsp = some (.ok (if v then 1#32 else 0#32))) ∧
      ∀ j, j ≠ i → j < windowSize s.cfg → ∃ u u', exec (.bget j) t = .next u ∧ exec (.bget j) s = .next u' ∧
        u.rsp = u'.rsp

/-- `WGET` (41_bitstream.md R115): bit `o` of the response is stream bit `32*idx + o`. -/
def Obligations.WgetReadsWord : Prop :=
  ∀ (idx : Nat) (s : State),
    (idx < wordCount s.cfg →
      ∃ w, exec (.wget idx) s = .next { s with rsp := some (.ok w) } ∧ readBits s idx = .ok w ∧
        ∀ o < 32, w.getLsbD o = streamBit s (32 * idx + o)) ∧
    (wordCount s.cfg ≤ idx → FaultsWith .indexRange (encode (.wget idx)) s (exec (.wget idx) s))

/-- The bit order of the packed stream (20_memory.md R64): a word is the sum of its stream bits, offset `o` having
weight `2^o`. -/
def Obligations.WordIsSumOfStreamBits : Prop :=
  ∀ (s : State) (a : Nat) (w : Word), readBits s a = .ok w →
    w.toNat = ((List.range 32).map (fun o => (streamBit s (32 * a + o)).toNat * 2 ^ o)).sum ∧
    ∀ i, i / 32 = a → readBit s i = .ok (w.getLsbD (i % 32)) ∧ streamBit s i = w.getLsbD (i % 32)

/-- The word-level count is the bit-level count (41_bitstream.md R122), for every buffer and every lag. -/
def Obligations.WordLevelCountIsBitLevelCount : Prop :=
  ∀ (s : State) (pos : Nat), paramsOk s.cfg → pos < halfWindow s.cfg → countAt s pos = .ok (bitCount s pos)

/-- What 41_bitstream.md R120 says of a count: at most `CMP_BITS`, 0 at lag 0, and every stream bit it looks at has an
index of at most `WINDOW_SIZE - 34` (20_memory.md R76). -/
def Obligations.CountBounds : Prop :=
  ∀ (s : State) (pos : Nat), paramsOk s.cfg →
    bitCount s pos ≤ cmpBits s.cfg ∧ bitCount s 0 = 0 ∧
    (pos < halfWindow s.cfg → ∀ n < cmpBits s.cfg, n + pos ≤ windowSize s.cfg - 34)

/-- `ACORR` (41_bitstream.md R118, R124; 30_encoding.md R92): the counts at every lag from the start lag on and at no
other, their maximum, the first lag of their minimum, and nothing else but the marks; an empty range faults. -/
def Obligations.AcorrFillsTable : Prop :=
  ∀ (idx : Nat) (s : State), Inv s →
    (idx < halfWindow s.cfg →
      ∃ t w, exec (.acorr idx) s = .next t ∧ t.rsp = some (.ok w) ∧
        w.toNat = t.maxCount.toNat * 65536 + t.bestLag.toNat ∧
        (∀ p, idx ≤ p → p < halfWindow s.cfg → readTable t p = .ok (BitVec.ofNat 16 (bitCount s p)) ∧
          bitCount s p < 2 ^ 15) ∧
        (∀ p < idx, readTable t p = .error (.noValue .table p)) ∧
        t.tblLo = idx ∧ t.tblValid = true ∧ t.vMaxc = true ∧ t.vBlag = true ∧
        (∀ p, idx ≤ p → p < halfWindow s.cfg → bitCount s p ≤ t.maxCount.toNat) ∧
        (∃ p, idx ≤ p ∧ p < halfWindow s.cfg ∧ bitCount s p = t.maxCount.toNat) ∧
        idx ≤ t.bestLag.toNat ∧ t.bestLag.toNat < halfWindow s.cfg ∧
        (∀ p, idx ≤ p → p < halfWindow s.cfg → bitCount s t.bestLag.toNat ≤ bitCount s p) ∧
        (∀ p, idx ≤ p → p < t.bestLag.toNat → bitCount s t.bestLag.toNat < bitCount s p) ∧
        (∀ a, readBits t a = readBits s a) ∧ (∀ i, readSig t i = readSig s i) ∧
        { t with mem := s.mem, tblLo := s.tblLo, tblValid := s.tblValid, maxCount := s.maxCount,
                 vMaxc := s.vMaxc, bestLag := s.bestLag, vBlag := s.vBlag, rsp := s.rsp } = s) ∧
    (halfWindow s.cfg ≤ idx → FaultsWith .operandRange (encode (.acorr idx)) s (exec (.acorr idx) s))

/-- The last 33 stream bits take part in no count (70_reset_and_hazards.md R242; 20_memory.md R76). -/
def Obligations.LastStreamBitsDoNotCount : Prop :=
  ∀ (s s' : State) (pos : Nat), paramsOk s.cfg → s'.cfg = s.cfg →
    (∀ i < windowSize s.cfg - 33, streamBit s i = streamBit s' i) → pos < halfWindow s.cfg →
    ∃ c, countAt s pos = .ok c ∧ countAt s' pos = .ok c

/-- `TGET` (41_bitstream.md R128): `IndexRange` first, then `Unwritten`, else the count. -/
def Obligations.TgetReadsCount : Prop :=
  ∀ (idx : Nat) (s : State), Inv s →
    (halfWindow s.cfg ≤ idx → FaultsWith .indexRange (encode (.tget idx)) s (exec (.tget idx) s)) ∧
    (idx < halfWindow s.cfg → s.tblValid = false ∨ idx < s.tblLo →
      FaultsWith .unwritten (encode (.tget idx)) s (exec (.tget idx) s)) ∧
    (idx < halfWindow s.cfg → s.tblValid = true → s.tblLo ≤ idx →
      ∃ c, readTable s idx = .ok c ∧
        exec (.tget idx) s = .next { s with rsp := some (.ok (BitVec.ofNat 32 c.toNat)) })

/-! ### HarmonicCorrector -/

/-- Where the corrector reads (42_harmonic.md R144). Under the preconditions of R143, for every divisor it tries, the
candidate is at least the minimum period, and every lag it reads is in `[MIN_PERIOD + 1, BEST_LAG]` and holds a value.
And the corrected lag depends on no other element: two tables that read the same there give the same answer. -/
def Obligations.EchoLagsStayInRange : Prop :=
  (∀ (s : State) (d k : Nat), Inv s → s.vMaxc = true → s.vBlag = true → s.tblValid = true →
    s.tblLo ≤ s.cfg.minPeriod → s.bestLag.toNat < halfWindow s.cfg →
    1 ≤ d → d + 1 ≤ s.bestLag.toNat / s.cfg.minPeriod → k ∈ echoOffsets d →
    s.cfg.minPeriod ≤ s.bestLag.toNat / d ∧ s.cfg.minPeriod + 1 ≤ k + s.bestLag.toNat / d ∧
      k + s.bestLag.toNat / d ≤ s.bestLag.toNat ∧ ∃ c, readTable s (k + s.bestLag.toNat / d) = .ok c) ∧
  ∀ (s s' : State) (maxCount rawLag : Nat), paramsOk s.cfg → s'.cfg = s.cfg →
    (∀ p, s.cfg.minPeriod + 1 ≤ p → p ≤ rawLag → readTable s' p = readTable s p) →
    correct s' maxCount rawLag = correct s maxCount rawLag

/-- `HCORR` (42_harmonic.md R141, R142): the largest divisor below `BEST_LAG div MIN_PERIOD` whose echoes are all
strong gives the corrected lag, and with none the raw lag is returned; `CORR_LAG`, its mark and the response are
the only things written. -/
def Obligations.HcorrTakesLargestPassingDivisor : Prop :=
  ∀ s : State, Inv s → s.vMaxc = true → s.vBlag = true → s.tblValid = true → s.tblLo ≤ s.cfg.minPeriod →
    s.bestLag.toNat < halfWindow s.cfg →
    ∃ c : Nat, c < 2 ^ 32 ∧
      exec .hcorr s = .next { s with corrLag := BitVec.ofNat 32 c, vClag := true,
                                     rsp := some (.ok (BitVec.ofNat 32 c)) } ∧
      ((∃ d, 1 ≤ d ∧ d + 1 ≤ s.bestLag.toNat / s.cfg.minPeriod ∧ EchoesPass s d ∧ c = s.bestLag.toNat / d ∧
          ∀ d', d < d' → d' + 1 ≤ s.bestLag.toNat / s.cfg.minPeriod → ¬ EchoesPass s d') ∨
        (c = s.bestLag.toNat ∧
          ∀ d, 1 ≤ d → d + 1 ≤ s.bestLag.toNat / s.cfg.minPeriod → ¬ EchoesPass s d))

/-- The bounds of a corrected lag (42_harmonic.md R144). -/
def Obligations.CorrectedLagBounds : Prop :=
  ∀ s t : State, Inv s → exec .hcorr s = .next t → (∃ v, t.rsp = some (.ok v)) →
    t.corrLag.toNat ≤ s.bestLag.toNat ∧
    (s.cfg.minPeriod ≤ s.bestLag.toNat → s.cfg.minPeriod ≤ t.corrLag.toNat) ∧
    (s.bestLag.toNat < 2 * s.cfg.minPeriod → t.corrLag = s.bestLag)

/-- The preconditions of `HCORR` in their order (42_harmonic.md R143). -/
def Obligations.HcorrPreconditions : Prop :=
  ∀ s : State,
    (s.vMaxc = false ∨ s.vBlag = false ∨ s.tblValid = false ∨ s.cfg.minPeriod < s.tblLo →
      FaultsWith .unwritten 0x80000000#32 s (exec .hcorr s)) ∧
    (s.vMaxc = true → s.vBlag = true → s.tblValid = true → s.tblLo ≤ s.cfg.minPeriod →
      halfWindow s.cfg ≤ s.bestLag.toNat → FaultsWith .operandRange 0x80000000#32 s (exec .hcorr s))

/-! ### SubSampleRefiner -/

/-- The scan for an edge (43_refiner.md R153, R155): on a full window it answers the smallest edge at or after
`max(from, 1)`, or none; two consecutive indices are never both edges, and index 0 is none. -/
def Obligations.NextEdgeIsFirstEdge : Prop :=
  ∀ (s : State) (start : Nat), Inv s → s.wrIdx = windowSize s.cfg →
    ((∃ i, nextEdge s start = .ok (some i) ∧ FirstEdge s start i) ∨
      (nextEdge s start = .ok none ∧ NoEdge s start)) ∧
    ¬ IsEdge s 0 ∧ ∀ i, IsEdge s i → ¬ IsEdge s (i + 1)

/-- When a refinement is undetermined (43_refiner.md R164): the corrected lag is not below the window size, or there is
no edge in the window, or none from `CORR_LAG - 1` on, or both scans find the same edge. -/
def Obligations.RefineUndetermined : Prop :=
  ∀ s : State, Inv s → s.wrIdx = windowSize s.cfg → s.vClag = true → s.corrLag ≠ 0#32 →
    (windowSize s.cfg ≤ s.corrLag.toNat ∨ NoEdge s 0 ∨ NoEdge s (s.corrLag.toNat - 1) ∨
      ∃ i, FirstEdge s 0 i ∧ FirstEdge s (s.corrLag.toNat - 1) i) →
    exec .refine s = .next { s with resValid := true, undet := true, edge0 := 0#32, edge1 := 0#32, freq := 0#32,
                                    rsp := some (.ok 0#32) }

/-- The frequency (43_refiner.md R157, R158): with two different edges the result is the floor of
`SAMPLE_RATE * 4096 * D / N`, and the five result elements and the response are the only things written. -/
def Obligations.RefineFrequency : Prop :=
  ∀ (s : State) (i1 i2 : Nat), Inv s → s.wrIdx = windowSize s.cfg → s.vClag = true → s.corrLag ≠ 0#32 →
    s.corrLag.toNat < windowSize s.cfg → FirstEdge s 0 i1 → FirstEdge s (s.corrLag.toNat - 1) i2 → i1 ≠ i2 →
    ∃ q : Nat, q < 2 ^ 32 ∧
      (q : Int) * periodN s i1 i2 ≤ (s.cfg.sampleRate : Int) * 4096 * periodD s i1 i2 ∧
      (s.cfg.sampleRate : Int) * 4096 * periodD s i1 i2 < ((q : Int) + 1) * periodN s i1 i2 ∧
      exec .refine s = .next { s with resValid := true, undet := false, edge0 := BitVec.ofNat 32 i1,
                                      edge1 := BitVec.ofNat 32 i2, freq := BitVec.ofNat 32 q,
                                      rsp := some (.ok (BitVec.ofNat 32 q)) }

/-- What the period can be (43_refiner.md R160): 0 exactly when both scans find the same edge, which is when the first
edge is at or after `L - 1`; otherwise the edges are at least 2 apart and the period exceeds 1; it is never
negative and below `WINDOW_SIZE - 1`. -/
def Obligations.PeriodBounds : Prop :=
  ∀ (s : State) (lag i1 i2 : Nat), Inv s → s.wrIdx = windowSize s.cfg → 1 ≤ lag → lag < windowSize s.cfg →
    FirstEdge s 0 i1 → FirstEdge s (lag - 1) i2 →
    (i1 = i2 ↔ lag - 1 ≤ i1) ∧ (i1 = i2 → periodN s i1 i2 = 0) ∧
    (i1 ≠ i2 → i1 + 2 ≤ i2 ∧ periodD s i1 i2 < periodN s i1 i2) ∧
    0 ≤ periodN s i1 i2 ∧ 1 ≤ periodD s i1 i2 ∧
    periodN s i1 i2 < ((windowSize s.cfg : Int) - 1) * periodD s i1 i2 ∧
    1 ≤ i1 ∧ i2 ≤ windowSize s.cfg - 1

/-- The response 0 of `REFINE` and `RUN` always means undetermined, and a determined `FREQ` is in
`[1, SAMPLE_RATE * 4096)` (43_refiner.md R161; 10_state.md R28). -/
def Obligations.ZeroResponseMeansUndetermined : Prop :=
  ∀ (i : Instr) (s t : State) (v : Word), i = .refine ∨ i = .run → Inv s → exec i s = .next t →
    t.rsp = some (.ok v) →
    t.resValid = true ∧ t.freq = v ∧ (v = 0#32 ↔ t.undet = true) ∧
    (t.undet = false → 1 ≤ t.freq.toNat ∧ t.freq.toNat < s.cfg.sampleRate * 4096)

/-- The preconditions of `REFINE` in their order (43_refiner.md R162). -/
def Obligations.RefinePreconditions : Prop :=
  ∀ s : State,
    (s.wrIdx ≠ windowSize s.cfg → FaultsWith .windowShort 0x90000000#32 s (exec .refine s)) ∧
    (s.wrIdx = windowSize s.cfg → s.vClag = false → FaultsWith .unwritten 0x90000000#32 s (exec .refine s)) ∧
    (s.wrIdx = windowSize s.cfg → s.vClag = true → s.corrLag = 0#32 →
      FaultsWith .operandRange 0x90000000#32 s (exec .refine s))

/-! ### Pipeline -/

/-- `WRST` (44_pipeline.md R171; the column "after WRST" of 10_state.md R40): every element but the fault record. -/
def Obligations.WrstOpensWindow : Prop :=
  ∀ s : State, ∃ t, exec .wrst s = .next t ∧ t.rsp = some (.ok 0#32) ∧
    t.latched = false ∧ (∀ a < wordCount s.cfg, readBits t a = .ok 0#32) ∧ t.wrIdx = 0 ∧
    (∀ i < windowSize s.cfg, readSig t i = .error (.noValue .sig i)) ∧ t.tblValid = false ∧ t.tblLo = 0 ∧
    (∀ p < halfWindow s.cfg, readTable t p = .error (.noValue .table p)) ∧
    t.maxCount = 0#32 ∧ t.bestLag = 0#32 ∧ t.corrLag = 0#32 ∧ t.vMaxc = false ∧ t.vBlag = false ∧
    t.vClag = false ∧ t.resValid = false ∧ t.undet = false ∧ t.edge0 = 0#32 ∧ t.edge1 = 0#32 ∧ t.freq = 0#32 ∧
    t.errCode = s.errCode ∧ t.errCmd = s.errCmd ∧ t.cfg = s.cfg ∧ t.pending = s.pending

/-- After `WRST` nothing of the earlier window is left (10_state.md R39): two blocks with the same build, record and
pending events are in the same state after it; it changes nothing on a freshly reset block, and two of them equal
one (44_pipeline.md R171; 70_reset_and_hazards.md R232). -/
def Obligations.WrstForgetsWindow : Prop :=
  (∀ s s' : State, s.cfg = s'.cfg → s.errCode = s'.errCode → s.errCmd = s'.errCmd → s.pending = s'.pending →
    exec .wrst s = exec .wrst s') ∧
  (∀ p : Params, exec .wrst (State.resetOf p) = .next { State.resetOf p with rsp := some (.ok 0#32) }) ∧
  ∀ s t : State, exec .wrst s = .next t → exec .wrst t = .next t

/-- `PUSH` (44_pipeline.md R174): the latch moves as for `ZC`, the sample is stored as element `WR_IDX`, the new latch
as stream bit `WR_IDX`, and `WR_IDX` counts it; nothing else changes. With a full window it faults. -/
def Obligations.PushTakesSample : Prop :=
  ∀ (smp : Sample) (s : State) (b : Bool), Inv s →
    b = (if smp.toInt ≤ -3277 then false else if 1 ≤ smp.toInt then true else s.latched) →
    (s.wrIdx < windowSize s.cfg →
      ∃ t, exec (.push smp) s = .next t ∧ t.rsp = some (.ok (if b then 1#32 else 0#32)) ∧ t.latched = b ∧
        t.wrIdx = s.wrIdx + 1 ∧ readSig t s.wrIdx = .ok smp ∧
        (∀ i, i ≠ s.wrIdx → readSig t i = readSig s i) ∧
        streamBit t s.wrIdx = b ∧ (∀ j, j ≠ s.wrIdx → streamBit t j = streamBit s j) ∧
        (∀ a, a ≠ wordOfBit s.wrIdx → readBits t a = readBits s a) ∧
        (∀ p, readTable t p = readTable s p) ∧
        { t with latched := s.latched, mem := s.mem, wrIdx := s.wrIdx, rsp := s.rsp } = s) ∧
    (s.wrIdx = windowSize s.cfg → FaultsWith .windowFull (encode (.push smp)) s (exec (.push smp) s))

/-- `PUSH` in terms of the other commands (44_pipeline.md R176): `LATCHED`, `BITS` and the response are those of `ZC`
and then `BSET`; beside them only `SIG` and `WR_IDX` are written. -/
def Obligations.PushIsZcThenBset : Prop :=
  ∀ (smp : Sample) (s : State), Inv s → s.wrIdx < windowSize s.cfg →
    ∃ a b t, exec (.zc smp) s = .next a ∧ exec (.bset s.wrIdx a.latched) a = .next b ∧
      exec (.push smp) s = .next t ∧ t.rsp = a.rsp ∧ t.latched = b.latched ∧ t.mem.bits = b.mem.bits ∧
      { t with mem := { t.mem with sig := b.mem.sig }, wrIdx := b.wrIdx, rsp := b.rsp } = b

/-- `WR_IDX` moves by `PUSH` and `WRST` only, by 1 and never past `WINDOW_SIZE`, or to 0 (44_pipeline.md R175). -/
def Obligations.WriteIndexMoves : Prop :=
  ∀ (i : Instr) (s t : State), exec i s = .next t →
    t.wrIdx = s.wrIdx ∨ (i = .wrst ∧ t.wrIdx = 0) ∨
      ((∃ smp, i = .push smp) ∧ t.wrIdx = s.wrIdx + 1 ∧ s.wrIdx < windowSize s.cfg)

/-- `RUN` in terms of the other commands (44_pipeline.md R179): from a full window it leaves the state and gives the
response of `ACORR MIN_PERIOD`, `HCORR`, `REFINE` issued in that order. -/
def Obligations.RunIsAcorrHcorrRefine : Prop :=
  ∀ s : State, Inv s → s.wrIdx = windowSize s.cfg →
    ∃ a b t, exec (.acorr s.cfg.minPeriod) s = .next a ∧ exec .hcorr a = .next b ∧ exec .refine b = .next t ∧
      exec .run s = .next t

/-- `RUN` (44_pipeline.md R177, R178): with a full window it completes without a fault, fills the table from
`MIN_PERIOD`, sets every mark and leaves the latch, the stream, the samples and `WR_IDX` alone; otherwise it faults
`WindowShort`. -/
def Obligations.RunCompletes : Prop :=
  ∀ s : State, Inv s →
    (s.wrIdx = windowSize s.cfg →
      ∃ t, exec .run s = .next t ∧ (∃ v, t.rsp = some (.ok v)) ∧
        t.tblValid = true ∧ t.vMaxc = true ∧ t.vBlag = true ∧ t.vClag = true ∧ t.resValid = true ∧
        t.tblLo = s.cfg.minPeriod ∧
        (∀ p, s.cfg.minPeriod ≤ p → p < halfWindow s.cfg → readTable t p = .ok (BitVec.ofNat 16 (bitCount s p))) ∧
        (∀ p < s.cfg.minPeriod, readTable t p = .error (.noValue .table p)) ∧
        s.cfg.minPeriod ≤ t.corrLag.toNat ∧ t.corrLag.toNat ≤ t.bestLag.toNat ∧
        t.bestLag.toNat < halfWindow s.cfg ∧
        (∀ a, readBits t a = readBits s a) ∧ (∀ i, readSig t i = readSig s i) ∧
        { t with mem := s.mem, tblLo := s.tblLo, tblValid := s.tblValid, maxCount := s.maxCount, vMaxc := s.vMaxc,
                 bestLag := s.bestLag, vBlag := s.vBlag, corrLag := s.corrLag, vClag := s.vClag,
                 resValid := s.resValid, undet := s.undet, edge0 := s.edge0, edge1 := s.edge1, freq := s.freq,
                 rsp := s.rsp } = s) ∧
    (s.wrIdx ≠ windowSize s.cfg → FaultsWith .windowShort 0xA0000000#32 s (exec .run s))

/-- "RUN may be repeated and gives the same result" (44_pipeline.md R178). -/
def Obligations.RunIsRepeatable : Prop :=
  ∀ s t : State, Inv s → s.wrIdx = windowSize s.cfg → exec .run s = .next t → exec .run t = .next t

/-- The pipeline as a function (44_pipeline.md R180): `WRST`, one `PUSH` for each sample of a window, `RUN`, from any
state of the build, never faults, and its response and the state it leaves (apart from the record, and from the
model's pending events) depend on the samples alone. -/
def Obligations.EstimateDependsOnWindowOnly : Prop :=
  ∀ (s s' : State) (smps : List Sample), Inv s → Inv s' → s'.cfg = s.cfg → smps.length = windowSize s.cfg →
    ∃ t t' v, issue (.wrst :: smps.map .push ++ [.run]) s = .next t ∧
      issue (.wrst :: smps.map .push ++ [.run]) s' = .next t' ∧
      t.rsp = some (.ok v) ∧ t'.rsp = some (.ok v) ∧ t.errCode = s.errCode ∧ t.errCmd = s.errCmd ∧
      { t' with errCode := t.errCode, errCmd := t.errCmd, pending := t.pending } = t

/-! ### System commands -/

/-- `NOP` (45_system.md R186): the response 0 and nothing else. -/
def Obligations.NopOnlyResponds : Prop :=
  ∀ s : State, exec .nop s = .next { s with rsp := some (.ok 0#32) }

/-- `RDR` of every register but `STATUS` (45_system.md R187, R188), with the words a refused read records. -/
def Obligations.RdrReadsRegister : Prop :=
  ∀ s : State,
    exec (.rdr .err) s = .next { s with rsp := some (.ok (BitVec.ofNat 32 s.errCode.toNat)) } ∧
    exec (.rdr .errCmd) s = .next { s with rsp := some (.ok s.errCmd) } ∧
    exec (.rdr .wrIdx) s = .next { s with rsp := some (.ok (BitVec.ofNat 32 s.wrIdx)) } ∧
    (s.vMaxc = true → exec (.rdr .maxCount) s = .next { s with rsp := some (.ok s.maxCount) }) ∧
    (s.vMaxc = false → FaultsWith .unwritten 0xB4000000#32 s (exec (.rdr .maxCount) s)) ∧
    (s.vBlag = true → exec (.rdr .bestLag) s = .next { s with rsp := some (.ok s.bestLag) }) ∧
    (s.vBlag = false → FaultsWith .unwritten 0xB5000000#32 s (exec (.rdr .bestLag) s)) ∧
    (s.vClag = true → exec (.rdr .corrLag) s = .next { s with rsp := some (.ok s.corrLag) }) ∧
    (s.vClag = false → FaultsWith .unwritten 0xB6000000#32 s (exec (.rdr .corrLag) s)) ∧
    (s.tblValid = true → exec (.rdr .tblLo) s = .next { s with rsp := some (.ok (BitVec.ofNat 32 s.tblLo)) }) ∧
    (s.tblValid = false → FaultsWith .unwritten 0xB7000000#32 s (exec (.rdr .tblLo) s)) ∧
    (s.resValid = true → exec (.rdr .edge0) s = .next { s with rsp := some (.ok s.edge0) } ∧
      exec (.rdr .edge1) s = .next { s with rsp := some (.ok s.edge1) } ∧
      exec (.rdr .freq) s = .next { s with rsp := some (.ok s.freq) }) ∧
    (s.resValid = false → FaultsWith .unwritten 0xB8000000#32 s (exec (.rdr .edge0) s) ∧
      FaultsWith .unwritten 0xB9000000#32 s (exec (.rdr .edge1) s) ∧
      FaultsWith .unwritten 0xBA000000#32 s (exec (.rdr .freq) s)) ∧
    FaultsWith .regAccess 0xBB000000#32 s (exec (.rdr .reserved11) s) ∧
    exec (.rdr .cfgRate) s = .next { s with rsp := some (.ok (BitVec.ofNat 32 s.cfg.sampleRate)) } ∧
    exec (.rdr .cfgWindow) s = .next { s with rsp := some (.ok (BitVec.ofNat 32 (windowSize s.cfg))) } ∧
    exec (.rdr .cfgMinp) s = .next { s with rsp := some (.ok (BitVec.ofNat 32 s.cfg.minPeriod)) } ∧
    exec (.rdr .cfgMaxp) s = .next { s with rsp := some (.ok (BitVec.ofNat 32 s.cfg.maxPeriod)) }

/-- `STATUS` bit by bit (10_state.md R31), as `RDR STATUS` reads it; `UNDET` is 0 whenever `RES_VALID` is. -/
def Obligations.StatusShowsFlags : Prop :=
  ∀ s : State, ∃ w : Word, exec (.rdr .status) s = .next { s with rsp := some (.ok w) } ∧
    w.getLsbD 0 = s.latched ∧ (w.getLsbD 1 = true ↔ s.wrIdx = windowSize s.cfg) ∧
    w.getLsbD 2 = s.tblValid ∧ w.getLsbD 3 = s.vMaxc ∧ w.getLsbD 4 = s.vBlag ∧ w.getLsbD 5 = s.vClag ∧
    w.getLsbD 6 = s.resValid ∧ w.getLsbD 7 = s.undet ∧ (w.getLsbD 8 = true ↔ s.errCode ≠ 0#4) ∧
    (∀ k, 9 ≤ k → w.getLsbD k = false) ∧ (Inv s → s.resValid = false → w.getLsbD 7 = false)

/-- `LDR` (45_system.md R191, R192): registers 4, 5, 6 take the zero-extended value and their mark, which `RDR` then
returns; every other register is refused. -/
def Obligations.LdrLoadsHandOverRegister : Prop :=
  ∀ (imm : BitVec 24) (s : State),
    exec (.ldr .maxCount imm) s =
      .next { s with maxCount := BitVec.ofNat 32 imm.toNat, vMaxc := true, rsp := some (.ok 0#32) } ∧
    exec (.ldr .bestLag imm) s =
      .next { s with bestLag := BitVec.ofNat 32 imm.toNat, vBlag := true, rsp := some (.ok 0#32) } ∧
    exec (.ldr .corrLag imm) s =
      .next { s with corrLag := BitVec.ofNat 32 imm.toNat, vClag := true, rsp := some (.ok 0#32) } ∧
    (∀ reg, reg = .maxCount ∨ reg = .bestLag ∨ reg = .corrLag →
      ∃ t u, exec (.ldr reg imm) s = .next t ∧ exec (.rdr reg) t = .next u ∧
        u.rsp = some (.ok (BitVec.ofNat 32 imm.toNat))) ∧
    ∀ reg, reg ≠ .maxCount → reg ≠ .bestLag → reg ≠ .corrLag →
      FaultsWith .regAccess (encode (.ldr reg imm)) s (exec (.ldr reg imm) s)

/-! ### Whole-machine rules -/

/-- What a command does is a function of the state of the block (10_state.md R20) and of the parameters: neither the
events to come (log 3) nor an earlier response (log 4) is read, the events stay, and every command that ends has
answered with a response (30_encoding.md R80). -/
def Obligations.CommandsReadBlockOnly : Prop :=
  ∀ (i : Instr) (s s' t : State), s'.toBlock = s.toBlock → s'.cfg = s.cfg → exec i s = .next t →
    t.pending = s.pending ∧ t.rsp.isSome = true ∧ exec i s' = .next { t with pending := s'.pending }

/-- No read has a side effect (20_memory.md R68): `BGET`, `WGET`, `TGET` and `RDR` change nothing but the response and,
when they fault, the record. -/
def Obligations.ReadsHaveNoSideEffect : Prop :=
  ∀ (i : Instr) (s t : State),
    (∃ idx, i = .bget idx ∨ i = .wget idx ∨ i = .tget idx) ∨ (∃ reg, i = .rdr reg) → exec i s = .next t →
    { t with rsp := s.rsp, errCode := s.errCode, errCmd := s.errCmd } = s ∧
    ((∃ v, t.rsp = some (.ok v)) → t.errCode = s.errCode ∧ t.errCmd = s.errCmd)

/-- Which commands write which flag (10_state.md R32): the columns "set to 1 by" and "set to 0 by". -/
def Obligations.FlagsWrittenAsTabled : Prop :=
  ∀ (i : Instr) (s t : State), exec i s = .next t →
    (s.latched = false → t.latched = true → ∃ smp, (i = .zc smp ∨ i = .push smp) ∧ 1 ≤ smp.toInt) ∧
    (s.latched = true → t.latched = false →
      i = .wrst ∨ ∃ smp, (i = .zc smp ∨ i = .push smp) ∧ smp.toInt ≤ -3277) ∧
    (s.wrIdx ≠ windowSize s.cfg → t.wrIdx = windowSize t.cfg → ∃ smp, i = .push smp ∧ s.wrIdx + 1 = t.wrIdx) ∧
    (s.wrIdx = windowSize s.cfg → t.wrIdx ≠ windowSize t.cfg → i = .wrst) ∧
    (s.tblValid = false → t.tblValid = true → i = .run ∨ ∃ idx, i = .acorr idx) ∧
    (s.tblValid = true → t.tblValid = false → i = .wrst) ∧
    (s.vMaxc = false → t.vMaxc = true →
      i = .run ∨ (∃ idx, i = .acorr idx) ∨ ∃ imm, i = .ldr .maxCount imm) ∧
    (s.vMaxc = true → t.vMaxc = false → i = .wrst) ∧
    (s.vBlag = false → t.vBlag = true →
      i = .run ∨ (∃ idx, i = .acorr idx) ∨ ∃ imm, i = .ldr .bestLag imm) ∧
    (s.vBlag = true → t.vBlag = false → i = .wrst) ∧
    (s.vClag = false → t.vClag = true → i = .hcorr ∨ i = .run ∨ ∃ imm, i = .ldr .corrLag imm) ∧
    (s.vClag = true → t.vClag = false → i = .wrst) ∧
    (s.resValid = false → t.resValid = true → i = .refine ∨ i = .run) ∧
    (s.resValid = true → t.resValid = false → i = .wrst) ∧
    (s.undet = false → t.undet = true → i = .refine ∨ i = .run) ∧
    (s.undet = true → t.undet = false → i = .refine ∨ i = .run ∨ i = .wrst) ∧
    (s.errCode = 0#4 → t.errCode ≠ 0#4 → ∃ c, t.rsp = some (.fault c)) ∧
    (s.errCode ≠ 0#4 → t.errCode ≠ 0#4)

/-- Which commands write which memory: those of the column "written by" of 20_memory.md R60, and `WRST`, which R60 lists
for `BITS` and which takes the values of `SIG` and `TABLE` away (44_pipeline.md R171; 10_state.md R40), in the model by
emptying their lists (log 8). -/
def Obligations.MemoriesWrittenAsTabled : Prop :=
  ∀ (i : Instr) (s t : State), exec i s = .next t →
    (t.mem.bits ≠ s.mem.bits → i = .wrst ∨ (∃ smp, i = .push smp) ∨ ∃ idx v, i = .bset idx v) ∧
    (t.mem.sig ≠ s.mem.sig → i = .wrst ∨ ∃ smp, i = .push smp) ∧
    (t.mem.table ≠ s.mem.table → i = .wrst ∨ i = .run ∨ ∃ idx, i = .acorr idx)

/-- The configuration is constant (10_state.md R33): no step changes it, reset included, and `LDR` to its registers
faults `RegAccess`. -/
def Obligations.ConfigurationIsConstant : Prop :=
  (∀ s t : State, step s = .next t → t.cfg = s.cfg) ∧
  ∀ (reg : Reg) (imm : BitVec 24) (s : State),
    reg = .cfgRate ∨ reg = .cfgWindow ∨ reg = .cfgMinp ∨ reg = .cfgMaxp →
    FaultsWith .regAccess (encode (.ldr reg imm)) s (exec (.ldr reg imm) s)

/-- The first command after reset (70_reset_and_hazards.md R233; 10_state.md R40): which commands succeed in the reset
state, which fault and how, and that `STATUS` reads 0. -/
def Obligations.FirstCommandAfterReset : Prop :=
  ∀ p : Params, paramsOk p →
    (∀ smp, Succeeds (exec (.zc smp) (State.resetOf p)) ∧ Succeeds (exec (.push smp) (State.resetOf p))) ∧
    (∀ idx < windowSize p, Succeeds (exec (.bget idx) (State.resetOf p)) ∧
      ∀ v, Succeeds (exec (.bset idx v) (State.resetOf p))) ∧
    (∀ idx < wordCount p, Succeeds (exec (.wget idx) (State.resetOf p))) ∧
    (∀ idx < halfWindow p, Succeeds (exec (.acorr idx) (State.resetOf p)) ∧
      FaultsWith .unwritten (encode (.tget idx)) (State.resetOf p) (exec (.tget idx) (State.resetOf p))) ∧
    Succeeds (exec .nop (State.resetOf p)) ∧ Succeeds (exec .wrst (State.resetOf p)) ∧
    (∀ imm, Succeeds (exec (.ldr .maxCount imm) (State.resetOf p)) ∧
      Succeeds (exec (.ldr .bestLag imm) (State.resetOf p)) ∧
      Succeeds (exec (.ldr .corrLag imm) (State.resetOf p))) ∧
    (∃ t, exec (.rdr .status) (State.resetOf p) = .next t ∧ t.rsp = some (.ok 0#32)) ∧
    (∀ reg ∈ [Reg.err, .errCmd, .wrIdx, .cfgRate, .cfgWindow, .cfgMinp, .cfgMaxp],
      Succeeds (exec (.rdr reg) (State.resetOf p))) ∧
    (∀ reg ∈ [Reg.maxCount, .bestLag, .corrLag, .tblLo, .edge0, .edge1, .freq],
      FaultsWith .unwritten (encode (.rdr reg)) (State.resetOf p) (exec (.rdr reg) (State.resetOf p))) ∧
    FaultsWith .unwritten 0x80000000#32 (State.resetOf p) (exec .hcorr (State.resetOf p)) ∧
    FaultsWith .windowShort 0x90000000#32 (State.resetOf p) (exec .refine (State.resetOf p)) ∧
    FaultsWith .windowShort 0xA0000000#32 (State.resetOf p) (exec .run (State.resetOf p))
end

