-- ==== Sys2Proof/Laws/Memory.lean ====
section
/-! SUPPORT. The laws of a memory space: read after write, and every operation keeps the canonical form. -/

namespace Sys2Proof.Machine

variable {w : Nat}

/-! ### Reads -/

@[simp] theorem lookup_nil (a : Nat) : lookup ([] : Cells w) a = none := rfl

theorem lookup_mem {m : Cells w} {a : Nat} {v : BitVec w} (h : lookup m a = some v) : (a, v) ∈ m := by
  induction m with
  | nil => cases h
  | cons c m ih =>
    obtain ⟨b, u⟩ := c
    simp only [lookup] at h
    split at h
    · next hab => cases h; subst hab; exact List.mem_cons_self
    · exact List.mem_cons_of_mem _ (ih h)

/-- An element is listed exactly when a read finds it. -/
theorem lookup_isSome_iff (m : Cells w) (a : Nat) : (lookup m a).isSome ↔ a ∈ m.map Prod.fst := by
  induction m with
  | nil => simp [lookup]
  | cons c m ih =>
    obtain ⟨b, u⟩ := c
    by_cases h : a = b <;> simp [lookup, h, ih]

theorem lookup_eq_none_iff (m : Cells w) (a : Nat) : lookup m a = none ↔ a ∉ m.map Prod.fst := by
  rw [← lookup_isSome_iff]; cases lookup m a <;> simp

theorem lookup_exists_of_mem_keys {m : Cells w} {a : Nat} (h : a ∈ m.map Prod.fst) :
    ∃ v, lookup m a = some v :=
  Option.isSome_iff_exists.mp ((lookup_isSome_iff m a).mpr h)

/-- Reading a list of elements with the given indices and values, all indices different. -/
theorem lookup_map_of_nodup {α : Type} (f : α → Nat) (g : α → BitVec w) (l : List α)
    (hf : (l.map f).Nodup) {x : α} (hx : x ∈ l) :
    lookup (l.map (fun y => (f y, g y))) (f x) = some (g x) := by
  induction l with
  | nil => cases hx
  | cons y l ih =>
    simp only [List.map_cons, List.nodup_cons] at hf
    rcases List.mem_cons.mp hx with rfl | hx
    · simp [lookup]
    · have hne : f x ≠ f y := fun h => hf.1 (h ▸ List.mem_map_of_mem hx)
      simp [lookup, hne, ih hf.2 hx]

/-! ### Writes -/

/-- A read after `put`. -/
theorem lookup_put (m : Cells w) (a b : Nat) (v : BitVec w) :
    lookup (put m a v) b = if b = a then some v else lookup m b := by
  induction m with
  | nil => simp [put, lookup]
  | cons c m ih =>
    obtain ⟨d, u⟩ := c
    simp only [put]
    split
    · simp [lookup]
    · split
      · next h => subst h; by_cases hb : b = a <;> simp [lookup, hb]
      · next h =>
        by_cases hbd : b = d
        · subst hbd; simp [lookup, Ne.symm h]
        · simp [lookup, hbd, ih]

theorem mem_put {m : Cells w} {a : Nat} {v : BitVec w} {c : Nat × BitVec w} (h : c ∈ put m a v) :
    c = (a, v) ∨ c ∈ m := by
  induction m with
  | nil => simpa [put] using h
  | cons d m ih =>
    obtain ⟨d, u⟩ := d
    simp only [put] at h
    split at h
    · simpa using h
    · split at h
      · rcases List.mem_cons.mp h with h | h
        · exact .inl h
        · exact .inr (List.mem_cons_of_mem _ h)
      · rcases List.mem_cons.mp h with h | h
        · exact .inr (h ▸ List.mem_cons_self)
        · exact (ih h).imp_right (List.mem_cons_of_mem _)

theorem mem_drop {m : Cells w} {a : Nat} {c : Nat × BitVec w} (h : c ∈ drop m a) : c ∈ m := by
  induction m with
  | nil => cases h
  | cons d m ih =>
    obtain ⟨d, u⟩ := d
    simp only [drop] at h
    split at h
    · exact List.mem_cons_of_mem _ h
    · rcases List.mem_cons.mp h with h | h
      · exact h ▸ List.mem_cons_self
      · exact List.mem_cons_of_mem _ (ih h)

theorem rising_put {m : Cells w} (h : Rising m) (a : Nat) (v : BitVec w) : Rising (put m a v) := by
  induction m with
  | nil => simp [put, Rising]
  | cons c m ih =>
    obtain ⟨b, u⟩ := c
    obtain ⟨hb, hm⟩ := List.pairwise_cons.mp h
    simp only [put]
    split
    · next hab =>
      refine List.pairwise_cons.mpr ⟨fun x hx => ?_, h⟩
      rcases List.mem_cons.mp hx with rfl | hx
      · exact hab
      · exact Nat.lt_trans hab (hb x hx)
    · split
      · next hab => subst hab; exact List.pairwise_cons.mpr ⟨hb, hm⟩
      · next h1 h2 =>
        refine List.pairwise_cons.mpr ⟨fun x hx => ?_, ih hm⟩
        rcases mem_put hx with rfl | hx
        · simp only; omega
        · exact hb x hx

theorem rising_drop {m : Cells w} (h : Rising m) (a : Nat) : Rising (drop m a) := by
  induction m with
  | nil => exact h
  | cons c m ih =>
    obtain ⟨b, u⟩ := c
    obtain ⟨hb, hm⟩ := List.pairwise_cons.mp h
    simp only [drop]
    split
    · exact hm
    · exact List.pairwise_cons.mpr ⟨fun x hx => hb x (mem_drop hx), ih hm⟩

/-- A read after `drop`, on a list in canonical form. -/
theorem lookup_drop {m : Cells w} (h : Rising m) (a b : Nat) :
    lookup (drop m a) b = if b = a then none else lookup m b := by
  induction m with
  | nil => simp [drop, lookup]
  | cons c m ih =>
    obtain ⟨d, u⟩ := c
    obtain ⟨hd, hm⟩ := List.pairwise_cons.mp h
    simp only [drop]
    split
    · next had =>
      subst had
      by_cases hb : b = a
      · subst hb
        rw [if_pos rfl, lookup_eq_none_iff]
        intro hmem
        obtain ⟨x, hx, hxa⟩ := List.mem_map.mp hmem
        have := hd x hx
        simp only at this
        omega
      · simp [lookup, hb]
    · next had =>
      by_cases hbd : b = d
      · subst hbd; simp [lookup, Ne.symm had]
      · simp [lookup, hbd, ih hm]

/-- Everything a write of a space whose unlisted elements read 0 can do to a read. -/
theorem getD_lookup_putOrDrop {m : Cells w} (h : Rising m) (a b : Nat) (v : BitVec w) :
    (lookup (putOrDrop m a v) b).getD 0#w = if b = a then v else (lookup m b).getD 0#w := by
  unfold putOrDrop
  split
  · next hv => subst hv; rw [lookup_drop h]; split <;> simp
  · rw [lookup_put]; split <;> simp

theorem rising_putOrDrop {m : Cells w} (h : Rising m) (a : Nat) (v : BitVec w) : Rising (putOrDrop m a v) := by
  unfold putOrDrop; split
  · exact rising_drop h a
  · exact rising_put h a v

theorem putOrDrop_nonzero {m : Cells w} (h : ∀ c ∈ m, c.2 ≠ 0#w) (a : Nat) (v : BitVec w) :
    ∀ c ∈ putOrDrop m a v, c.2 ≠ 0#w := by
  intro c hc
  unfold putOrDrop at hc
  split at hc
  · exact h c (mem_drop hc)
  · next hv =>
    rcases mem_put hc with rfl | hc
    · exact hv
    · exact h c hc

theorem putOrDrop_keys {m : Cells w} {n a : Nat} (h : ∀ c ∈ m, c.1 < n) (ha : a < n) (v : BitVec w) :
    ∀ c ∈ putOrDrop m a v, c.1 < n := by
  intro c hc
  unfold putOrDrop at hc
  split at hc
  · exact h c (mem_drop hc)
  · rcases mem_put hc with rfl | hc
    · exact ha
    · exact h c hc

/-- A write past every listed element goes to the end of the list. -/
theorem put_past_end {m : Cells w} {a : Nat} (h : ∀ c ∈ m, c.1 < a) (v : BitVec w) :
    put m a v = m ++ [(a, v)] := by
  induction m with
  | nil => rfl
  | cons c m ih =>
    obtain ⟨b, u⟩ := c
    have hb : b < a := h (b, u) List.mem_cons_self
    have h1 : ¬ a < b := by omega
    have h2 : a ≠ b := by omega
    simp [put, h1, h2, ih fun c hc => h c (List.mem_cons_of_mem _ hc)]

/-- Indices that rise one by one rise. -/
theorem rising_of_keys {m : Cells w} {start n : Nat} (h : m.map Prod.fst = List.range' start n) : Rising m := by
  have : (m.map Prod.fst).Pairwise (· < ·) := h ▸ List.pairwise_lt_range'
  exact List.pairwise_map.mp this

end Sys2Proof.Machine
end

