-- ==== Sys2Proof/Laws/Parameters.lean ====
section
/-! SUPPORT. What the derived parameters of an admitted build satisfy (00_scope.md R7, R9). -/

namespace Sys2Proof.Machine

/-- Everything `doubleUntil` can answer: a doubling of `p` that is the first to reach `n`, or the last one the
fuel allows. -/
theorem doubleUntil_spec (fuel p n : Nat) :
    ∃ j ≤ fuel, doubleUntil fuel p n = p * 2 ^ j ∧ (j < fuel → n ≤ p * 2 ^ j) ∧
      ∀ k < j, p * 2 ^ k < n := by
  induction fuel generalizing p with
  | zero => exact ⟨0, le_rfl, by simp [doubleUntil], by simp, by simp⟩
  | succ fuel ih =>
    by_cases h : n ≤ p
    · exact ⟨0, by omega, by simp [doubleUntil, h], by simpa using h, by simp⟩
    · obtain ⟨j, hj, he, hn, hk⟩ := ih (2 * p)
      refine ⟨j + 1, by omega, by simp [doubleUntil, h, he, pow_succ]; ring, fun hlt => ?_, fun k hkj => ?_⟩
      · have := hn (by omega); rw [pow_succ]; linarith [this, mul_comm 2 p, mul_assoc p (2 ^ j) 2]
      · cases k with
        | zero => simpa using h
        | succ k => have := hk k (by omega); rw [pow_succ]; linarith [this, mul_assoc p (2 ^ k) 2]

/-- `powerOfTwoFrom n` is a power of two that reaches `n`, and no smaller power of two does. -/
theorem powerOfTwoFrom_spec (n : Nat) :
    ∃ j, powerOfTwoFrom n = 2 ^ j ∧ n ≤ 2 ^ j ∧ ∀ k < j, 2 ^ k < n := by
  obtain ⟨j, hj, he, hn, hk⟩ := doubleUntil_spec n 1 n
  refine ⟨j, by simpa [powerOfTwoFrom] using he, ?_, fun k hkj => by simpa using hk k hkj⟩
  by_cases h : j < n
  · simpa using hn h
  · have : j = n := by omega
    subst this; exact Nat.lt_two_pow_self.le

/-- The window sizes an admitted build can have. -/
theorem windowSize_cases {p : Params} (h : paramsOk p) :
    windowSize p = 128 ∨ windowSize p = 256 ∨ windowSize p = 512 ∨ windowSize p = 1024 ∨ windowSize p = 2048 ∨
      windowSize p = 4096 ∨ windowSize p = 8192 ∨ windowSize p = 16384 ∨ windowSize p = 32768 ∨
      windowSize p = 65536 := by
  obtain ⟨j, he, hn, hk⟩ := powerOfTwoFrom_spec (2 * p.maxPeriod)
  obtain ⟨-, -, -, -, -, h33, h32768⟩ := h
  have h7 : 7 ≤ j := by
    by_contra hlt
    have : 2 ^ j ≤ 2 ^ 6 := Nat.pow_le_pow_right (by decide) (by omega)
    omega
  have h16 : j ≤ 16 := by
    by_contra hgt
    have := hk 16 (by omega)
    omega
  unfold windowSize
  rw [he]
  interval_cases j <;> simp

/-- The consequences of 00_scope.md R9, in the form proofs use: every derived parameter in terms of
`HALF_WORD_COUNT`. -/
theorem derived_sizes {p : Params} (h : paramsOk p) :
    1 ≤ halfWordCount p ∧ halfWordCount p ≤ 1023 ∧
      wordCount p = 2 * halfWordCount p + 2 ∧ windowSize p = 64 * halfWordCount p + 64 ∧
      halfWindow p = 32 * halfWordCount p + 32 ∧ cmpBits p = 32 * halfWordCount p := by
  unfold halfWordCount cmpBits halfWordCount halfWindow wordCount wordWidth
  rcases windowSize_cases h with h | h | h | h | h | h | h | h | h | h <;> rw [h] <;> decide

theorem windowSize_bounds {p : Params} (h : paramsOk p) : 128 ≤ windowSize p ∧ windowSize p ≤ 65536 := by
  have := derived_sizes h; omega

theorem minPeriod_lt_halfWindow {p : Params} (h : paramsOk p) : p.minPeriod < halfWindow p := h.2.2.2.2.1

theorem one_le_minPeriod {p : Params} (h : paramsOk p) : 1 ≤ p.minPeriod := h.2.2.1

/-- The word of a stream bit inside the window is a word of the buffer. -/
theorem wordOfBit_lt {p : Params} (h : paramsOk p) {i : Nat} (hi : i < windowSize p) : i / 32 < wordCount p := by
  have := derived_sizes h; omega

end Sys2Proof.Machine
end

