-- ==== Sys2Proof/Laws/State.lean ====
section
/-! SUPPORT. One lemma per field per update of the state: no later proof unfolds an update. -/

namespace Sys2Proof.Machine

/-! ### respond -/

@[simp] theorem respond_latched (r : Response) (s : State) : (respond r s).latched = s.latched := rfl
@[simp] theorem respond_mem (r : Response) (s : State) : (respond r s).mem = s.mem := rfl
@[simp] theorem respond_wrIdx (r : Response) (s : State) : (respond r s).wrIdx = s.wrIdx := rfl
@[simp] theorem respond_tblValid (r : Response) (s : State) : (respond r s).tblValid = s.tblValid := rfl
@[simp] theorem respond_tblLo (r : Response) (s : State) : (respond r s).tblLo = s.tblLo := rfl
@[simp] theorem respond_maxCount (r : Response) (s : State) : (respond r s).maxCount = s.maxCount := rfl
@[simp] theorem respond_vMaxc (r : Response) (s : State) : (respond r s).vMaxc = s.vMaxc := rfl
@[simp] theorem respond_bestLag (r : Response) (s : State) : (respond r s).bestLag = s.bestLag := rfl
@[simp] theorem respond_vBlag (r : Response) (s : State) : (respond r s).vBlag = s.vBlag := rfl
@[simp] theorem respond_corrLag (r : Response) (s : State) : (respond r s).corrLag = s.corrLag := rfl
@[simp] theorem respond_vClag (r : Response) (s : State) : (respond r s).vClag = s.vClag := rfl
@[simp] theorem respond_resValid (r : Response) (s : State) : (respond r s).resValid = s.resValid := rfl
@[simp] theorem respond_undet (r : Response) (s : State) : (respond r s).undet = s.undet := rfl
@[simp] theorem respond_edge0 (r : Response) (s : State) : (respond r s).edge0 = s.edge0 := rfl
@[simp] theorem respond_edge1 (r : Response) (s : State) : (respond r s).edge1 = s.edge1 := rfl
@[simp] theorem respond_freq (r : Response) (s : State) : (respond r s).freq = s.freq := rfl
@[simp] theorem respond_errCode (r : Response) (s : State) : (respond r s).errCode = s.errCode := rfl
@[simp] theorem respond_errCmd (r : Response) (s : State) : (respond r s).errCmd = s.errCmd := rfl
@[simp] theorem respond_cfg (r : Response) (s : State) : (respond r s).cfg = s.cfg := rfl
@[simp] theorem respond_pending (r : Response) (s : State) : (respond r s).pending = s.pending := rfl
@[simp] theorem respond_rsp (r : Response) (s : State) : (respond r s).rsp = some r := rfl

/-! ### setLatched -/

@[simp] theorem setLatched_latched (b : Bool) (s : State) : (setLatched b s).latched = b := rfl
@[simp] theorem setLatched_mem (b : Bool) (s : State) : (setLatched b s).mem = s.mem := rfl
@[simp] theorem setLatched_wrIdx (b : Bool) (s : State) : (setLatched b s).wrIdx = s.wrIdx := rfl
@[simp] theorem setLatched_tblValid (b : Bool) (s : State) : (setLatched b s).tblValid = s.tblValid := rfl
@[simp] theorem setLatched_tblLo (b : Bool) (s : State) : (setLatched b s).tblLo = s.tblLo := rfl
@[simp] theorem setLatched_maxCount (b : Bool) (s : State) : (setLatched b s).maxCount = s.maxCount := rfl
@[simp] theorem setLatched_vMaxc (b : Bool) (s : State) : (setLatched b s).vMaxc = s.vMaxc := rfl
@[simp] theorem setLatched_bestLag (b : Bool) (s : State) : (setLatched b s).bestLag = s.bestLag := rfl
@[simp] theorem setLatched_vBlag (b : Bool) (s : State) : (setLatched b s).vBlag = s.vBlag := rfl
@[simp] theorem setLatched_corrLag (b : Bool) (s : State) : (setLatched b s).corrLag = s.corrLag := rfl
@[simp] theorem setLatched_vClag (b : Bool) (s : State) : (setLatched b s).vClag = s.vClag := rfl
@[simp] theorem setLatched_resValid (b : Bool) (s : State) : (setLatched b s).resValid = s.resValid := rfl
@[simp] theorem setLatched_undet (b : Bool) (s : State) : (setLatched b s).undet = s.undet := rfl
@[simp] theorem setLatched_edge0 (b : Bool) (s : State) : (setLatched b s).edge0 = s.edge0 := rfl
@[simp] theorem setLatched_edge1 (b : Bool) (s : State) : (setLatched b s).edge1 = s.edge1 := rfl
@[simp] theorem setLatched_freq (b : Bool) (s : State) : (setLatched b s).freq = s.freq := rfl
@[simp] theorem setLatched_errCode (b : Bool) (s : State) : (setLatched b s).errCode = s.errCode := rfl
@[simp] theorem setLatched_errCmd (b : Bool) (s : State) : (setLatched b s).errCmd = s.errCmd := rfl
@[simp] theorem setLatched_cfg (b : Bool) (s : State) : (setLatched b s).cfg = s.cfg := rfl
@[simp] theorem setLatched_pending (b : Bool) (s : State) : (setLatched b s).pending = s.pending := rfl
@[simp] theorem setLatched_rsp (b : Bool) (s : State) : (setLatched b s).rsp = s.rsp := rfl

/-! ### setBits -/

@[simp] theorem setBits_latched (m : Cells 32) (s : State) : (setBits m s).latched = s.latched := rfl
@[simp] theorem setBits_mem (m : Cells 32) (s : State) : (setBits m s).mem = { s.mem with bits := m } := rfl
@[simp] theorem setBits_wrIdx (m : Cells 32) (s : State) : (setBits m s).wrIdx = s.wrIdx := rfl
@[simp] theorem setBits_tblValid (m : Cells 32) (s : State) : (setBits m s).tblValid = s.tblValid := rfl
@[simp] theorem setBits_tblLo (m : Cells 32) (s : State) : (setBits m s).tblLo = s.tblLo := rfl
@[simp] theorem setBits_maxCount (m : Cells 32) (s : State) : (setBits m s).maxCount = s.maxCount := rfl
@[simp] theorem setBits_vMaxc (m : Cells 32) (s : State) : (setBits m s).vMaxc = s.vMaxc := rfl
@[simp] theorem setBits_bestLag (m : Cells 32) (s : State) : (setBits m s).bestLag = s.bestLag := rfl
@[simp] theorem setBits_vBlag (m : Cells 32) (s : State) : (setBits m s).vBlag = s.vBlag := rfl
@[simp] theorem setBits_corrLag (m : Cells 32) (s : State) : (setBits m s).corrLag = s.corrLag := rfl
@[simp] theorem setBits_vClag (m : Cells 32) (s : State) : (setBits m s).vClag = s.vClag := rfl
@[simp] theorem setBits_resValid (m : Cells 32) (s : State) : (setBits m s).resValid = s.resValid := rfl
@[simp] theorem setBits_undet (m : Cells 32) (s : State) : (setBits m s).undet = s.undet := rfl
@[simp] theorem setBits_edge0 (m : Cells 32) (s : State) : (setBits m s).edge0 = s.edge0 := rfl
@[simp] theorem setBits_edge1 (m : Cells 32) (s : State) : (setBits m s).edge1 = s.edge1 := rfl
@[simp] theorem setBits_freq (m : Cells 32) (s : State) : (setBits m s).freq = s.freq := rfl
@[simp] theorem setBits_errCode (m : Cells 32) (s : State) : (setBits m s).errCode = s.errCode := rfl
@[simp] theorem setBits_errCmd (m : Cells 32) (s : State) : (setBits m s).errCmd = s.errCmd := rfl
@[simp] theorem setBits_cfg (m : Cells 32) (s : State) : (setBits m s).cfg = s.cfg := rfl
@[simp] theorem setBits_pending (m : Cells 32) (s : State) : (setBits m s).pending = s.pending := rfl
@[simp] theorem setBits_rsp (m : Cells 32) (s : State) : (setBits m s).rsp = s.rsp := rfl

/-! ### setSig -/

@[simp] theorem setSig_latched (m : Cells 16) (n : Nat) (s : State) : (setSig m n s).latched = s.latched := rfl
@[simp] theorem setSig_mem (m : Cells 16) (n : Nat) (s : State) : (setSig m n s).mem = { s.mem with sig := m } := rfl
@[simp] theorem setSig_wrIdx (m : Cells 16) (n : Nat) (s : State) : (setSig m n s).wrIdx = n := rfl
@[simp] theorem setSig_tblValid (m : Cells 16) (n : Nat) (s : State) : (setSig m n s).tblValid = s.tblValid := rfl
@[simp] theorem setSig_tblLo (m : Cells 16) (n : Nat) (s : State) : (setSig m n s).tblLo = s.tblLo := rfl
@[simp] theorem setSig_maxCount (m : Cells 16) (n : Nat) (s : State) : (setSig m n s).maxCount = s.maxCount := rfl
@[simp] theorem setSig_vMaxc (m : Cells 16) (n : Nat) (s : State) : (setSig m n s).vMaxc = s.vMaxc := rfl
@[simp] theorem setSig_bestLag (m : Cells 16) (n : Nat) (s : State) : (setSig m n s).bestLag = s.bestLag := rfl
@[simp] theorem setSig_vBlag (m : Cells 16) (n : Nat) (s : State) : (setSig m n s).vBlag = s.vBlag := rfl
@[simp] theorem setSig_corrLag (m : Cells 16) (n : Nat) (s : State) : (setSig m n s).corrLag = s.corrLag := rfl
@[simp] theorem setSig_vClag (m : Cells 16) (n : Nat) (s : State) : (setSig m n s).vClag = s.vClag := rfl
@[simp] theorem setSig_resValid (m : Cells 16) (n : Nat) (s : State) : (setSig m n s).resValid = s.resValid := rfl
@[simp] theorem setSig_undet (m : Cells 16) (n : Nat) (s : State) : (setSig m n s).undet = s.undet := rfl
@[simp] theorem setSig_edge0 (m : Cells 16) (n : Nat) (s : State) : (setSig m n s).edge0 = s.edge0 := rfl
@[simp] theorem setSig_edge1 (m : Cells 16) (n : Nat) (s : State) : (setSig m n s).edge1 = s.edge1 := rfl
@[simp] theorem setSig_freq (m : Cells 16) (n : Nat) (s : State) : (setSig m n s).freq = s.freq := rfl
@[simp] theorem setSig_errCode (m : Cells 16) (n : Nat) (s : State) : (setSig m n s).errCode = s.errCode := rfl
@[simp] theorem setSig_errCmd (m : Cells 16) (n : Nat) (s : State) : (setSig m n s).errCmd = s.errCmd := rfl
@[simp] theorem setSig_cfg (m : Cells 16) (n : Nat) (s : State) : (setSig m n s).cfg = s.cfg := rfl
@[simp] theorem setSig_pending (m : Cells 16) (n : Nat) (s : State) : (setSig m n s).pending = s.pending := rfl
@[simp] theorem setSig_rsp (m : Cells 16) (n : Nat) (s : State) : (setSig m n s).rsp = s.rsp := rfl

/-! ### setTable -/

@[simp] theorem setTable_latched (m : Cells 16) (lo : Nat) (s : State) : (setTable m lo s).latched = s.latched := rfl
@[simp] theorem setTable_mem (m : Cells 16) (lo : Nat) (s : State) :
    (setTable m lo s).mem = { s.mem with table := m } := rfl
@[simp] theorem setTable_wrIdx (m : Cells 16) (lo : Nat) (s : State) : (setTable m lo s).wrIdx = s.wrIdx := rfl
@[simp] theorem setTable_tblValid (m : Cells 16) (lo : Nat) (s : State) : (setTable m lo s).tblValid = true := rfl
@[simp] theorem setTable_tblLo (m : Cells 16) (lo : Nat) (s : State) : (setTable m lo s).tblLo = lo := rfl
@[simp] theorem setTable_maxCount (m : Cells 16) (lo : Nat) (s : State) :
    (setTable m lo s).maxCount = s.maxCount := rfl
@[simp] theorem setTable_vMaxc (m : Cells 16) (lo : Nat) (s : State) : (setTable m lo s).vMaxc = s.vMaxc := rfl
@[simp] theorem setTable_bestLag (m : Cells 16) (lo : Nat) (s : State) : (setTable m lo s).bestLag = s.bestLag := rfl
@[simp] theorem setTable_vBlag (m : Cells 16) (lo : Nat) (s : State) : (setTable m lo s).vBlag = s.vBlag := rfl
@[simp] theorem setTable_corrLag (m : Cells 16) (lo : Nat) (s : State) : (setTable m lo s).corrLag = s.corrLag := rfl
@[simp] theorem setTable_vClag (m : Cells 16) (lo : Nat) (s : State) : (setTable m lo s).vClag = s.vClag := rfl
@[simp] theorem setTable_resValid (m : Cells 16) (lo : Nat) (s : State) :
    (setTable m lo s).resValid = s.resValid := rfl
@[simp] theorem setTable_undet (m : Cells 16) (lo : Nat) (s : State) : (setTable m lo s).undet = s.undet := rfl
@[simp] theorem setTable_edge0 (m : Cells 16) (lo : Nat) (s : State) : (setTable m lo s).edge0 = s.edge0 := rfl
@[simp] theorem setTable_edge1 (m : Cells 16) (lo : Nat) (s : State) : (setTable m lo s).edge1 = s.edge1 := rfl
@[simp] theorem setTable_freq (m : Cells 16) (lo : Nat) (s : State) : (setTable m lo s).freq = s.freq := rfl
@[simp] theorem setTable_errCode (m : Cells 16) (lo : Nat) (s : State) : (setTable m lo s).errCode = s.errCode := rfl
@[simp] theorem setTable_errCmd (m : Cells 16) (lo : Nat) (s : State) : (setTable m lo s).errCmd = s.errCmd := rfl
@[simp] theorem setTable_cfg (m : Cells 16) (lo : Nat) (s : State) : (setTable m lo s).cfg = s.cfg := rfl
@[simp] theorem setTable_pending (m : Cells 16) (lo : Nat) (s : State) : (setTable m lo s).pending = s.pending := rfl
@[simp] theorem setTable_rsp (m : Cells 16) (lo : Nat) (s : State) : (setTable m lo s).rsp = s.rsp := rfl

/-! ### setMaxCount -/

@[simp] theorem setMaxCount_latched (v : Word) (s : State) : (setMaxCount v s).latched = s.latched := rfl
@[simp] theorem setMaxCount_mem (v : Word) (s : State) : (setMaxCount v s).mem = s.mem := rfl
@[simp] theorem setMaxCount_wrIdx (v : Word) (s : State) : (setMaxCount v s).wrIdx = s.wrIdx := rfl
@[simp] theorem setMaxCount_tblValid (v : Word) (s : State) : (setMaxCount v s).tblValid = s.tblValid := rfl
@[simp] theorem setMaxCount_tblLo (v : Word) (s : State) : (setMaxCount v s).tblLo = s.tblLo := rfl
@[simp] theorem setMaxCount_maxCount (v : Word) (s : State) : (setMaxCount v s).maxCount = v := rfl
@[simp] theorem setMaxCount_vMaxc (v : Word) (s : State) : (setMaxCount v s).vMaxc = true := rfl
@[simp] theorem setMaxCount_bestLag (v : Word) (s : State) : (setMaxCount v s).bestLag = s.bestLag := rfl
@[simp] theorem setMaxCount_vBlag (v : Word) (s : State) : (setMaxCount v s).vBlag = s.vBlag := rfl
@[simp] theorem setMaxCount_corrLag (v : Word) (s : State) : (setMaxCount v s).corrLag = s.corrLag := rfl
@[simp] theorem setMaxCount_vClag (v : Word) (s : State) : (setMaxCount v s).vClag = s.vClag := rfl
@[simp] theorem setMaxCount_resValid (v : Word) (s : State) : (setMaxCount v s).resValid = s.resValid := rfl
@[simp] theorem setMaxCount_undet (v : Word) (s : State) : (setMaxCount v s).undet = s.undet := rfl
@[simp] theorem setMaxCount_edge0 (v : Word) (s : State) : (setMaxCount v s).edge0 = s.edge0 := rfl
@[simp] theorem setMaxCount_edge1 (v : Word) (s : State) : (setMaxCount v s).edge1 = s.edge1 := rfl
@[simp] theorem setMaxCount_freq (v : Word) (s : State) : (setMaxCount v s).freq = s.freq := rfl
@[simp] theorem setMaxCount_errCode (v : Word) (s : State) : (setMaxCount v s).errCode = s.errCode := rfl
@[simp] theorem setMaxCount_errCmd (v : Word) (s : State) : (setMaxCount v s).errCmd = s.errCmd := rfl
@[simp] theorem setMaxCount_cfg (v : Word) (s : State) : (setMaxCount v s).cfg = s.cfg := rfl
@[simp] theorem setMaxCount_pending (v : Word) (s : State) : (setMaxCount v s).pending = s.pending := rfl
@[simp] theorem setMaxCount_rsp (v : Word) (s : State) : (setMaxCount v s).rsp = s.rsp := rfl

/-! ### setBestLag -/

@[simp] theorem setBestLag_latched (v : Word) (s : State) : (setBestLag v s).latched = s.latched := rfl
@[simp] theorem setBestLag_mem (v : Word) (s : State) : (setBestLag v s).mem = s.mem := rfl
@[simp] theorem setBestLag_wrIdx (v : Word) (s : State) : (setBestLag v s).wrIdx = s.wrIdx := rfl
@[simp] theorem setBestLag_tblValid (v : Word) (s : State) : (setBestLag v s).tblValid = s.tblValid := rfl
@[simp] theorem setBestLag_tblLo (v : Word) (s : State) : (setBestLag v s).tblLo = s.tblLo := rfl
@[simp] theorem setBestLag_maxCount (v : Word) (s : State) : (setBestLag v s).maxCount = s.maxCount := rfl
@[simp] theorem setBestLag_vMaxc (v : Word) (s : State) : (setBestLag v s).vMaxc = s.vMaxc := rfl
@[simp] theorem setBestLag_bestLag (v : Word) (s : State) : (setBestLag v s).bestLag = v := rfl
@[simp] theorem setBestLag_vBlag (v : Word) (s : State) : (setBestLag v s).vBlag = true := rfl
@[simp] theorem setBestLag_corrLag (v : Word) (s : State) : (setBestLag v s).corrLag = s.corrLag := rfl
@[simp] theorem setBestLag_vClag (v : Word) (s : State) : (setBestLag v s).vClag = s.vClag := rfl
@[simp] theorem setBestLag_resValid (v : Word) (s : State) : (setBestLag v s).resValid = s.resValid := rfl
@[simp] theorem setBestLag_undet (v : Word) (s : State) : (setBestLag v s).undet = s.undet := rfl
@[simp] theorem setBestLag_edge0 (v : Word) (s : State) : (setBestLag v s).edge0 = s.edge0 := rfl
@[simp] theorem setBestLag_edge1 (v : Word) (s : State) : (setBestLag v s).edge1 = s.edge1 := rfl
@[simp] theorem setBestLag_freq (v : Word) (s : State) : (setBestLag v s).freq = s.freq := rfl
@[simp] theorem setBestLag_errCode (v : Word) (s : State) : (setBestLag v s).errCode = s.errCode := rfl
@[simp] theorem setBestLag_errCmd (v : Word) (s : State) : (setBestLag v s).errCmd = s.errCmd := rfl
@[simp] theorem setBestLag_cfg (v : Word) (s : State) : (setBestLag v s).cfg = s.cfg := rfl
@[simp] theorem setBestLag_pending (v : Word) (s : State) : (setBestLag v s).pending = s.pending := rfl
@[simp] theorem setBestLag_rsp (v : Word) (s : State) : (setBestLag v s).rsp = s.rsp := rfl

/-! ### setCorrLag -/

@[simp] theorem setCorrLag_latched (v : Word) (s : State) : (setCorrLag v s).latched = s.latched := rfl
@[simp] theorem setCorrLag_mem (v : Word) (s : State) : (setCorrLag v s).mem = s.mem := rfl
@[simp] theorem setCorrLag_wrIdx (v : Word) (s : State) : (setCorrLag v s).wrIdx = s.wrIdx := rfl
@[simp] theorem setCorrLag_tblValid (v : Word) (s : State) : (setCorrLag v s).tblValid = s.tblValid := rfl
@[simp] theorem setCorrLag_tblLo (v : Word) (s : State) : (setCorrLag v s).tblLo = s.tblLo := rfl
@[simp] theorem setCorrLag_maxCount (v : Word) (s : State) : (setCorrLag v s).maxCount = s.maxCount := rfl
@[simp] theorem setCorrLag_vMaxc (v : Word) (s : State) : (setCorrLag v s).vMaxc = s.vMaxc := rfl
@[simp] theorem setCorrLag_bestLag (v : Word) (s : State) : (setCorrLag v s).bestLag = s.bestLag := rfl
@[simp] theorem setCorrLag_vBlag (v : Word) (s : State) : (setCorrLag v s).vBlag = s.vBlag := rfl
@[simp] theorem setCorrLag_corrLag (v : Word) (s : State) : (setCorrLag v s).corrLag = v := rfl
@[simp] theorem setCorrLag_vClag (v : Word) (s : State) : (setCorrLag v s).vClag = true := rfl
@[simp] theorem setCorrLag_resValid (v : Word) (s : State) : (setCorrLag v s).resValid = s.resValid := rfl
@[simp] theorem setCorrLag_undet (v : Word) (s : State) : (setCorrLag v s).undet = s.undet := rfl
@[simp] theorem setCorrLag_edge0 (v : Word) (s : State) : (setCorrLag v s).edge0 = s.edge0 := rfl
@[simp] theorem setCorrLag_edge1 (v : Word) (s : State) : (setCorrLag v s).edge1 = s.edge1 := rfl
@[simp] theorem setCorrLag_freq (v : Word) (s : State) : (setCorrLag v s).freq = s.freq := rfl
@[simp] theorem setCorrLag_errCode (v : Word) (s : State) : (setCorrLag v s).errCode = s.errCode := rfl
@[simp] theorem setCorrLag_errCmd (v : Word) (s : State) : (setCorrLag v s).errCmd = s.errCmd := rfl
@[simp] theorem setCorrLag_cfg (v : Word) (s : State) : (setCorrLag v s).cfg = s.cfg := rfl
@[simp] theorem setCorrLag_pending (v : Word) (s : State) : (setCorrLag v s).pending = s.pending := rfl
@[simp] theorem setCorrLag_rsp (v : Word) (s : State) : (setCorrLag v s).rsp = s.rsp := rfl

/-! ### setResult -/

@[simp] theorem setResult_latched (u : Bool) (e0 e1 f : Word) (s : State) :
    (setResult u e0 e1 f s).latched = s.latched := rfl
@[simp] theorem setResult_mem (u : Bool) (e0 e1 f : Word) (s : State) : (setResult u e0 e1 f s).mem = s.mem := rfl
@[simp] theorem setResult_wrIdx (u : Bool) (e0 e1 f : Word) (s : State) :
    (setResult u e0 e1 f s).wrIdx = s.wrIdx := rfl
@[simp] theorem setResult_tblValid (u : Bool) (e0 e1 f : Word) (s : State) :
    (setResult u e0 e1 f s).tblValid = s.tblValid := rfl
@[simp] theorem setResult_tblLo (u : Bool) (e0 e1 f : Word) (s : State) :
    (setResult u e0 e1 f s).tblLo = s.tblLo := rfl
@[simp] theorem setResult_maxCount (u : Bool) (e0 e1 f : Word) (s : State) :
    (setResult u e0 e1 f s).maxCount = s.maxCount := rfl
@[simp] theorem setResult_vMaxc (u : Bool) (e0 e1 f : Word) (s : State) :
    (setResult u e0 e1 f s).vMaxc = s.vMaxc := rfl
@[simp] theorem setResult_bestLag (u : Bool) (e0 e1 f : Word) (s : State) :
    (setResult u e0 e1 f s).bestLag = s.bestLag := rfl
@[simp] theorem setResult_vBlag (u : Bool) (e0 e1 f : Word) (s : State) :
    (setResult u e0 e1 f s).vBlag = s.vBlag := rfl
@[simp] theorem setResult_corrLag (u : Bool) (e0 e1 f : Word) (s : State) :
    (setResult u e0 e1 f s).corrLag = s.corrLag := rfl
@[simp] theorem setResult_vClag (u : Bool) (e0 e1 f : Word) (s : State) :
    (setResult u e0 e1 f s).vClag = s.vClag := rfl
@[simp] theorem setResult_resValid (u : Bool) (e0 e1 f : Word) (s : State) :
    (setResult u e0 e1 f s).resValid = true := rfl
@[simp] theorem setResult_undet (u : Bool) (e0 e1 f : Word) (s : State) : (setResult u e0 e1 f s).undet = u := rfl
@[simp] theorem setResult_edge0 (u : Bool) (e0 e1 f : Word) (s : State) : (setResult u e0 e1 f s).edge0 = e0 := rfl
@[simp] theorem setResult_edge1 (u : Bool) (e0 e1 f : Word) (s : State) : (setResult u e0 e1 f s).edge1 = e1 := rfl
@[simp] theorem setResult_freq (u : Bool) (e0 e1 f : Word) (s : State) : (setResult u e0 e1 f s).freq = f := rfl
@[simp] theorem setResult_errCode (u : Bool) (e0 e1 f : Word) (s : State) :
    (setResult u e0 e1 f s).errCode = s.errCode := rfl
@[simp] theorem setResult_errCmd (u : Bool) (e0 e1 f : Word) (s : State) :
    (setResult u e0 e1 f s).errCmd = s.errCmd := rfl
@[simp] theorem setResult_cfg (u : Bool) (e0 e1 f : Word) (s : State) : (setResult u e0 e1 f s).cfg = s.cfg := rfl
@[simp] theorem setResult_pending (u : Bool) (e0 e1 f : Word) (s : State) :
    (setResult u e0 e1 f s).pending = s.pending := rfl
@[simp] theorem setResult_rsp (u : Bool) (e0 e1 f : Word) (s : State) : (setResult u e0 e1 f s).rsp = s.rsp := rfl

/-! ### windowReset -/

@[simp] theorem windowReset_latched (s : State) : (windowReset s).latched = false := rfl
@[simp] theorem windowReset_mem (s : State) : (windowReset s).mem = { bits := [], sig := [], table := [] } := rfl
@[simp] theorem windowReset_wrIdx (s : State) : (windowReset s).wrIdx = 0 := rfl
@[simp] theorem windowReset_tblValid (s : State) : (windowReset s).tblValid = false := rfl
@[simp] theorem windowReset_tblLo (s : State) : (windowReset s).tblLo = 0 := rfl
@[simp] theorem windowReset_maxCount (s : State) : (windowReset s).maxCount = 0#32 := rfl
@[simp] theorem windowReset_vMaxc (s : State) : (windowReset s).vMaxc = false := rfl
@[simp] theorem windowReset_bestLag (s : State) : (windowReset s).bestLag = 0#32 := rfl
@[simp] theorem windowReset_vBlag (s : State) : (windowReset s).vBlag = false := rfl
@[simp] theorem windowReset_corrLag (s : State) : (windowReset s).corrLag = 0#32 := rfl
@[simp] theorem windowReset_vClag (s : State) : (windowReset s).vClag = false := rfl
@[simp] theorem windowReset_resValid (s : State) : (windowReset s).resValid = false := rfl
@[simp] theorem windowReset_undet (s : State) : (windowReset s).undet = false := rfl
@[simp] theorem windowReset_edge0 (s : State) : (windowReset s).edge0 = 0#32 := rfl
@[simp] theorem windowReset_edge1 (s : State) : (windowReset s).edge1 = 0#32 := rfl
@[simp] theorem windowReset_freq (s : State) : (windowReset s).freq = 0#32 := rfl
@[simp] theorem windowReset_errCode (s : State) : (windowReset s).errCode = s.errCode := rfl
@[simp] theorem windowReset_errCmd (s : State) : (windowReset s).errCmd = s.errCmd := rfl
@[simp] theorem windowReset_cfg (s : State) : (windowReset s).cfg = s.cfg := rfl
@[simp] theorem windowReset_pending (s : State) : (windowReset s).pending = s.pending := rfl
@[simp] theorem windowReset_rsp (s : State) : (windowReset s).rsp = s.rsp := rfl

/-! ### present -/

@[simp] theorem present_latched (e : HostEvent) (s : State) : (present e s).latched = s.latched := rfl
@[simp] theorem present_mem (e : HostEvent) (s : State) : (present e s).mem = s.mem := rfl
@[simp] theorem present_wrIdx (e : HostEvent) (s : State) : (present e s).wrIdx = s.wrIdx := rfl
@[simp] theorem present_tblValid (e : HostEvent) (s : State) : (present e s).tblValid = s.tblValid := rfl
@[simp] theorem present_tblLo (e : HostEvent) (s : State) : (present e s).tblLo = s.tblLo := rfl
@[simp] theorem present_maxCount (e : HostEvent) (s : State) : (present e s).maxCount = s.maxCount := rfl
@[simp] theorem present_vMaxc (e : HostEvent) (s : State) : (present e s).vMaxc = s.vMaxc := rfl
@[simp] theorem present_bestLag (e : HostEvent) (s : State) : (present e s).bestLag = s.bestLag := rfl
@[simp] theorem present_vBlag (e : HostEvent) (s : State) : (present e s).vBlag = s.vBlag := rfl
@[simp] theorem present_corrLag (e : HostEvent) (s : State) : (present e s).corrLag = s.corrLag := rfl
@[simp] theorem present_vClag (e : HostEvent) (s : State) : (present e s).vClag = s.vClag := rfl
@[simp] theorem present_resValid (e : HostEvent) (s : State) : (present e s).resValid = s.resValid := rfl
@[simp] theorem present_undet (e : HostEvent) (s : State) : (present e s).undet = s.undet := rfl
@[simp] theorem present_edge0 (e : HostEvent) (s : State) : (present e s).edge0 = s.edge0 := rfl
@[simp] theorem present_edge1 (e : HostEvent) (s : State) : (present e s).edge1 = s.edge1 := rfl
@[simp] theorem present_freq (e : HostEvent) (s : State) : (present e s).freq = s.freq := rfl
@[simp] theorem present_errCode (e : HostEvent) (s : State) : (present e s).errCode = s.errCode := rfl
@[simp] theorem present_errCmd (e : HostEvent) (s : State) : (present e s).errCmd = s.errCmd := rfl
@[simp] theorem present_cfg (e : HostEvent) (s : State) : (present e s).cfg = s.cfg := rfl
@[simp] theorem present_pending (e : HostEvent) (s : State) : (present e s).pending = e :: s.pending := rfl
@[simp] theorem present_rsp (e : HostEvent) (s : State) : (present e s).rsp = s.rsp := rfl

/-! ### record: only the fault record changes, and only while it is empty -/

@[simp] theorem record_latched (c : Cause) (cw : Word) (s : State) : (record c cw s).latched = s.latched := by
  unfold record; split <;> rfl
@[simp] theorem record_mem (c : Cause) (cw : Word) (s : State) : (record c cw s).mem = s.mem := by
  unfold record; split <;> rfl
@[simp] theorem record_wrIdx (c : Cause) (cw : Word) (s : State) : (record c cw s).wrIdx = s.wrIdx := by
  unfold record; split <;> rfl
@[simp] theorem record_tblValid (c : Cause) (cw : Word) (s : State) : (record c cw s).tblValid = s.tblValid := by
  unfold record; split <;> rfl
@[simp] theorem record_tblLo (c : Cause) (cw : Word) (s : State) : (record c cw s).tblLo = s.tblLo := by
  unfold record; split <;> rfl
@[simp] theorem record_maxCount (c : Cause) (cw : Word) (s : State) : (record c cw s).maxCount = s.maxCount := by
  unfold record; split <;> rfl
@[simp] theorem record_vMaxc (c : Cause) (cw : Word) (s : State) : (record c cw s).vMaxc = s.vMaxc := by
  unfold record; split <;> rfl
@[simp] theorem record_bestLag (c : Cause) (cw : Word) (s : State) : (record c cw s).bestLag = s.bestLag := by
  unfold record; split <;> rfl
@[simp] theorem record_vBlag (c : Cause) (cw : Word) (s : State) : (record c cw s).vBlag = s.vBlag := by
  unfold record; split <;> rfl
@[simp] theorem record_corrLag (c : Cause) (cw : Word) (s : State) : (record c cw s).corrLag = s.corrLag := by
  unfold record; split <;> rfl
@[simp] theorem record_vClag (c : Cause) (cw : Word) (s : State) : (record c cw s).vClag = s.vClag := by
  unfold record; split <;> rfl
@[simp] theorem record_resValid (c : Cause) (cw : Word) (s : State) : (record c cw s).resValid = s.resValid := by
  unfold record; split <;> rfl
@[simp] theorem record_undet (c : Cause) (cw : Word) (s : State) : (record c cw s).undet = s.undet := by
  unfold record; split <;> rfl
@[simp] theorem record_edge0 (c : Cause) (cw : Word) (s : State) : (record c cw s).edge0 = s.edge0 := by
  unfold record; split <;> rfl
@[simp] theorem record_edge1 (c : Cause) (cw : Word) (s : State) : (record c cw s).edge1 = s.edge1 := by
  unfold record; split <;> rfl
@[simp] theorem record_freq (c : Cause) (cw : Word) (s : State) : (record c cw s).freq = s.freq := by
  unfold record; split <;> rfl
@[simp] theorem record_cfg (c : Cause) (cw : Word) (s : State) : (record c cw s).cfg = s.cfg := by
  unfold record; split <;> rfl
@[simp] theorem record_pending (c : Cause) (cw : Word) (s : State) : (record c cw s).pending = s.pending := by
  unfold record; split <;> rfl
@[simp] theorem record_rsp (c : Cause) (cw : Word) (s : State) : (record c cw s).rsp = s.rsp := by
  unfold record; split <;> rfl
theorem record_errCode (c : Cause) (cw : Word) (s : State) :
    (record c cw s).errCode = if s.errCode = 0#4 then code c else s.errCode := by
  unfold record; split <;> rfl
theorem record_errCmd (c : Cause) (cw : Word) (s : State) :
    (record c cw s).errCmd = if s.errCode = 0#4 then cw else s.errCmd := by
  unfold record; split <;> rfl

/-! ### hardReset: the reset state of the same build, and the host's own list of events -/

@[simp] theorem hardReset_cfg (s : State) : (hardReset s).cfg = s.cfg := rfl
@[simp] theorem hardReset_pending (s : State) : (hardReset s).pending = s.pending := rfl
@[simp] theorem hardReset_latched (s : State) : (hardReset s).latched = false := rfl
@[simp] theorem hardReset_mem (s : State) : (hardReset s).mem = { bits := [], sig := [], table := [] } := rfl
@[simp] theorem hardReset_wrIdx (s : State) : (hardReset s).wrIdx = 0 := rfl
@[simp] theorem hardReset_tblValid (s : State) : (hardReset s).tblValid = false := rfl
@[simp] theorem hardReset_tblLo (s : State) : (hardReset s).tblLo = 0 := rfl
@[simp] theorem hardReset_maxCount (s : State) : (hardReset s).maxCount = 0#32 := rfl
@[simp] theorem hardReset_vMaxc (s : State) : (hardReset s).vMaxc = false := rfl
@[simp] theorem hardReset_bestLag (s : State) : (hardReset s).bestLag = 0#32 := rfl
@[simp] theorem hardReset_vBlag (s : State) : (hardReset s).vBlag = false := rfl
@[simp] theorem hardReset_corrLag (s : State) : (hardReset s).corrLag = 0#32 := rfl
@[simp] theorem hardReset_vClag (s : State) : (hardReset s).vClag = false := rfl
@[simp] theorem hardReset_resValid (s : State) : (hardReset s).resValid = false := rfl
@[simp] theorem hardReset_undet (s : State) : (hardReset s).undet = false := rfl
@[simp] theorem hardReset_edge0 (s : State) : (hardReset s).edge0 = 0#32 := rfl
@[simp] theorem hardReset_edge1 (s : State) : (hardReset s).edge1 = 0#32 := rfl
@[simp] theorem hardReset_freq (s : State) : (hardReset s).freq = 0#32 := rfl
@[simp] theorem hardReset_errCode (s : State) : (hardReset s).errCode = 0#4 := rfl
@[simp] theorem hardReset_errCmd (s : State) : (hardReset s).errCmd = 0#32 := rfl
@[simp] theorem hardReset_rsp (s : State) : (hardReset s).rsp = none := rfl

/-! ### The state of the block -/

@[simp] theorem blockReset_latched : Block.reset.latched = false := rfl
@[simp] theorem blockReset_mem : Block.reset.mem = { bits := [], sig := [], table := [] } := rfl
@[simp] theorem blockReset_wrIdx : Block.reset.wrIdx = 0 := rfl
@[simp] theorem blockReset_tblValid : Block.reset.tblValid = false := rfl
@[simp] theorem blockReset_tblLo : Block.reset.tblLo = 0 := rfl
@[simp] theorem blockReset_maxCount : Block.reset.maxCount = 0#32 := rfl
@[simp] theorem blockReset_vMaxc : Block.reset.vMaxc = false := rfl
@[simp] theorem blockReset_bestLag : Block.reset.bestLag = 0#32 := rfl
@[simp] theorem blockReset_vBlag : Block.reset.vBlag = false := rfl
@[simp] theorem blockReset_corrLag : Block.reset.corrLag = 0#32 := rfl
@[simp] theorem blockReset_vClag : Block.reset.vClag = false := rfl
@[simp] theorem blockReset_resValid : Block.reset.resValid = false := rfl
@[simp] theorem blockReset_undet : Block.reset.undet = false := rfl
@[simp] theorem blockReset_edge0 : Block.reset.edge0 = 0#32 := rfl
@[simp] theorem blockReset_edge1 : Block.reset.edge1 = 0#32 := rfl
@[simp] theorem blockReset_freq : Block.reset.freq = 0#32 := rfl
@[simp] theorem blockReset_errCode : Block.reset.errCode = 0#4 := rfl
@[simp] theorem blockReset_errCmd : Block.reset.errCmd = 0#32 := rfl

@[simp] theorem respond_toBlock (r : Response) (s : State) : (respond r s).toBlock = s.toBlock := rfl
@[simp] theorem present_toBlock (e : HostEvent) (s : State) : (present e s).toBlock = s.toBlock := rfl
@[simp] theorem hardReset_toBlock (s : State) : (hardReset s).toBlock = Block.reset := rfl
@[simp] theorem resetOf_toBlock (p : Params) : (State.resetOf p).toBlock = Block.reset := rfl
@[simp] theorem resetOf_cfg (p : Params) : (State.resetOf p).cfg = p := rfl
@[simp] theorem resetOf_pending (p : Params) : (State.resetOf p).pending = [] := rfl
@[simp] theorem resetOf_rsp (p : Params) : (State.resetOf p).rsp = none := rfl

/-- `WRST` and hardware reset differ in the fault record only (70_reset_and_hazards.md R230). -/
theorem windowReset_toBlock (s : State) :
    (windowReset s).toBlock = { Block.reset with errCode := s.errCode, errCmd := s.errCmd } := rfl

/-! ### Equal states -/

/-- Two blocks are equal when every component is. -/
theorem block_ext {s t : Block} (h1 : s.latched = t.latched) (h2 : s.mem = t.mem) (h3 : s.wrIdx = t.wrIdx)
    (h4 : s.tblValid = t.tblValid) (h5 : s.tblLo = t.tblLo) (h6 : s.maxCount = t.maxCount)
    (h7 : s.vMaxc = t.vMaxc) (h8 : s.bestLag = t.bestLag) (h9 : s.vBlag = t.vBlag)
    (h10 : s.corrLag = t.corrLag) (h11 : s.vClag = t.vClag) (h12 : s.resValid = t.resValid)
    (h13 : s.undet = t.undet) (h14 : s.edge0 = t.edge0) (h15 : s.edge1 = t.edge1) (h16 : s.freq = t.freq)
    (h17 : s.errCode = t.errCode) (h18 : s.errCmd = t.errCmd) : s = t := by
  cases s; cases t; simp_all

/-- Two states are equal when the blocks, the parameters, the events and the responses are. -/
theorem state_ext_block {s t : State} (hb : s.toBlock = t.toBlock) (hc : s.cfg = t.cfg)
    (hp : s.pending = t.pending) (hr : s.rsp = t.rsp) : s = t := by
  cases s; cases t; simp_all

/-- Two states are equal when every field is. -/
theorem state_ext {s t : State} (h1 : s.latched = t.latched) (h2 : s.mem = t.mem) (h3 : s.wrIdx = t.wrIdx)
    (h4 : s.tblValid = t.tblValid) (h5 : s.tblLo = t.tblLo) (h6 : s.maxCount = t.maxCount)
    (h7 : s.vMaxc = t.vMaxc) (h8 : s.bestLag = t.bestLag) (h9 : s.vBlag = t.vBlag)
    (h10 : s.corrLag = t.corrLag) (h11 : s.vClag = t.vClag) (h12 : s.resValid = t.resValid)
    (h13 : s.undet = t.undet) (h14 : s.edge0 = t.edge0) (h15 : s.edge1 = t.edge1) (h16 : s.freq = t.freq)
    (h17 : s.errCode = t.errCode) (h18 : s.errCmd = t.errCmd) (h19 : s.cfg = t.cfg)
    (h20 : s.pending = t.pending) (h21 : s.rsp = t.rsp) : s = t :=
  state_ext_block (block_ext h1 h2 h3 h4 h5 h6 h7 h8 h9 h10 h11 h12 h13 h14 h15 h16 h17 h18) h19 h20 h21

end Sys2Proof.Machine
end

