-- ==== Sys2Proof/Laws/Ops.lean ====
section
/-! SUPPORT. One lemma per shared operation of Machine/Ops.lean, saying once what it can do; and that each keeps
the canonical form of the memories. -/

namespace Sys2Proof.Machine

/-! ### Ends of a command -/

theorem finish_eq_next {r : Except Fault State} {t : State} : finish r = .next t ↔ r = .ok t := by
  cases r <;> simp [finish]

@[simp] theorem finish_ok (t : State) : finish (.ok t) = .next t := rfl

/-- A `do` block of accesses that answers a value: both parts do. -/
theorem bind_eq_ok {α β : Type} {x : Except Fault α} {f : α → Except Fault β} {b : β} :
    (x >>= f) = .ok b ↔ ∃ a, x = .ok a ∧ f a = .ok b := by
  cases x <;> simp [bind, Except.bind]

@[simp] theorem ok_bind {α β : Type} (a : α) (f : α → Except Fault β) : ((.ok a : Except Fault α) >>= f) = f a := rfl

@[simp] theorem error_bind {α β : Type} (e : Fault) (f : α → Except Fault β) :
    ((.error e : Except Fault α) >>= f) = .error e := rfl

@[simp] theorem pure_eq_ok {α : Type} (a : α) : (pure a : Except Fault α) = .ok a := rfl

/-- Everything `raised` can do (60_exceptions.md R204). -/
theorem raised_faultsWith (c : Cause) (cw : Word) (s : State) : FaultsWith c cw s (raised c cw s) := by
  refine ⟨raise c cw s, rfl, rfl, fun h => ?_, fun h => ?_, ?_⟩
  · simp [raise, record_errCode, record_errCmd, h]
  · simp [raise, record_errCode, record_errCmd, h]
  · apply state_ext <;> simp [raise]

/-- What a fault leaves is determined by `FaultsWith`. -/
theorem faultsWith_eq {c : Cause} {cw : Word} {s : State} {o : Out} (h : FaultsWith c cw s o) :
    o = raised c cw s := by
  obtain ⟨t, rfl, hr, h0, h1, hs⟩ := h
  have hc : t.errCode = (raise c cw s).errCode ∧ t.errCmd = (raise c cw s).errCmd := by
    by_cases he : s.errCode = 0#4
    · simp [raise, record_errCode, record_errCmd, he, h0 he]
    · simp [raise, record_errCode, record_errCmd, he, h1 he]
  have ht : t = raise c cw s := by
    apply state_ext <;> first
      | exact hr
      | exact hc.1
      | exact hc.2
      | (simp only [raise, respond_latched, respond_mem, respond_wrIdx, respond_tblValid, respond_tblLo,
          respond_maxCount, respond_vMaxc, respond_bestLag, respond_vBlag, respond_corrLag, respond_vClag,
          respond_resValid, respond_undet, respond_edge0, respond_edge1, respond_freq, respond_cfg,
          respond_pending, record_latched, record_mem, record_wrIdx, record_tblValid, record_tblLo,
          record_maxCount, record_vMaxc, record_bestLag, record_vBlag, record_corrLag, record_vClag,
          record_resValid, record_undet, record_edge0, record_edge1, record_freq, record_cfg, record_pending]
         rw [← hs])
  rw [ht]; rfl

/-! ### Element reads -/

theorem readBits_eq_ok {s : State} {a : Nat} {w : Word} :
    readBits s a = .ok w ↔ a < wordCount s.cfg ∧ (lookup s.mem.bits a).getD 0#32 = w := by
  unfold readBits; split <;> simp_all

theorem readBits_of_lt {s : State} {a : Nat} (h : a < wordCount s.cfg) :
    readBits s a = .ok ((lookup s.mem.bits a).getD 0#32) := by simp [readBits, h]

theorem readSig_eq_ok {s : State} {i : Nat} {v : Sample} :
    readSig s i = .ok v ↔ i < windowSize s.cfg ∧ lookup s.mem.sig i = some v := by
  unfold readSig; split
  · cases h : lookup s.mem.sig i <;> simp_all
  · simp_all

theorem readTable_eq_ok {s : State} {p : Nat} {c : Count} :
    readTable s p = .ok c ↔ p < halfWindow s.cfg ∧ lookup s.mem.table p = some c := by
  unfold readTable; split
  · cases h : lookup s.mem.table p <;> simp_all
  · simp_all

/-- The three reads look at their own memory and the parameters only. -/
theorem readBits_congr {s t : State} (hm : s.mem.bits = t.mem.bits) (hc : s.cfg = t.cfg) (a : Nat) :
    readBits s a = readBits t a := by simp [readBits, hm, hc]

theorem readSig_congr {s t : State} (hm : s.mem.sig = t.mem.sig) (hc : s.cfg = t.cfg) (i : Nat) :
    readSig s i = readSig t i := by simp [readSig, hm, hc]

theorem readTable_congr {s t : State} (hm : s.mem.table = t.mem.table) (hc : s.cfg = t.cfg) (p : Nat) :
    readTable s p = readTable t p := by simp [readTable, hm, hc]

/-- Which elements of `SIG` hold a value (20_memory.md R63). -/
theorem sig_holds_value {s : State} (h : SamplesInv s) {i : Nat} (hi : i < s.wrIdx) :
    ∃ v, lookup s.mem.sig i = some v :=
  lookup_exists_of_mem_keys (h.2 ▸ List.mem_range.mpr hi)

/-- Which elements of `TABLE` hold a value (20_memory.md R63). -/
theorem table_holds_value {s : State} (h : TableInv s) (hv : s.tblValid = true) {p : Nat} (hlo : s.tblLo ≤ p)
    (hhi : p < halfWindow s.cfg) : ∃ c, lookup s.mem.table p = some c := by
  apply lookup_exists_of_mem_keys
  rw [(h.2 hv).2.1, List.mem_range'_1]
  omega

theorem readSig_of_lt {s : State} (h : SamplesInv s) {i : Nat} (hi : i < s.wrIdx) :
    readSig s i = .ok ((lookup s.mem.sig i).getD 0#16) := by
  obtain ⟨v, hv⟩ := sig_holds_value h hi
  rw [readSig_eq_ok]
  exact ⟨Nat.lt_of_lt_of_le hi h.1, by simp [hv]⟩

theorem readTable_of_mem {s : State} (h : TableInv s) (hv : s.tblValid = true) {p : Nat} (hlo : s.tblLo ≤ p)
    (hhi : p < halfWindow s.cfg) : readTable s p = .ok ((lookup s.mem.table p).getD 0#16) := by
  obtain ⟨c, hc⟩ := table_holds_value h hv hlo hhi
  rw [readTable_eq_ok]
  exact ⟨hhi, by simp [hc]⟩

theorem readBit_of_lt {s : State} (hp : paramsOk s.cfg) {i : Nat} (hi : i < windowSize s.cfg) :
    readBit s i = .ok (streamBit s i) := by
  have h := wordOfBit_lt hp hi
  simp [readBit, wordOfBit, offsetOfBit, wordWidth, readBits_of_lt h, streamBit]

/-! ### Element writes -/

theorem writeBits_eq_ok {s t : State} {a : Nat} {w : Word} :
    writeBits s a w = .ok t ↔ a < wordCount s.cfg ∧ t = setBits (putOrDrop s.mem.bits a w) s := by
  unfold writeBits; split <;> simp_all [eq_comm]

/-- A word read after a word write. -/
theorem readBits_setBits {s : State} (h : Rising s.mem.bits) (a b : Nat) (w : Word) :
    readBits (setBits (putOrDrop s.mem.bits a w) s) b =
      if b < wordCount s.cfg then .ok (if b = a then w else (lookup s.mem.bits b).getD 0#32)
      else .error (.outsideSpace .bits b) := by
  simp only [readBits, setBits_cfg, setBits_mem, getD_lookup_putOrDrop h]

theorem appendSig_eq_ok {s t : State} {v : Sample} :
    appendSig s v = .ok t ↔
      s.wrIdx < windowSize s.cfg ∧ t = setSig (put s.mem.sig s.wrIdx v) (s.wrIdx + 1) s := by
  unfold appendSig; split <;> simp_all [eq_comm]

/-- One bit of a word with a bit replaced (41_bitstream.md R113). -/
theorem getLsbD_withBit (w : Word) (o t : Nat) (v : Bool) (ho : o < 32) :
    (withBit w o v).getLsbD t = if t = o then v else w.getLsbD t := by
  by_cases ht : t < 32
  · cases v <;> by_cases h : t = o
    · subst h; simp [withBit, ht]
    · have : ¬ (o ≤ t ∧ t - o = 0) := by omega
      simp only [withBit, Bool.false_eq_true, if_false, BitVec.getLsbD_and, BitVec.getLsbD_not,
        BitVec.getLsbD_shiftLeft, BitVec.getLsbD_one, h, ht]
      rcases Nat.lt_or_ge t o with hlt | hge
      · simp [hlt]
      · have h2 : ¬ t - o = 0 := by omega
        simp [h2]
    · subst h; simp [withBit, ht]
    · simp only [withBit, if_true, BitVec.getLsbD_or, BitVec.getLsbD_shiftLeft, BitVec.getLsbD_one, h, if_false]
      rcases Nat.lt_or_ge t o with hlt | hge
      · simp [hlt]
      · have h2 : ¬ t - o = 0 := by omega
        simp [h2]
  · have h1 : t ≠ o := by omega
    rw [BitVec.getLsbD_of_ge _ _ (by omega), BitVec.getLsbD_of_ge _ _ (by omega), if_neg h1]

/-- Everything `writeBit` can do inside the window: it writes one word, in which it replaces one bit. -/
theorem writeBit_of_lt {s : State} (hp : paramsOk s.cfg) {i : Nat} (hi : i < windowSize s.cfg) (v : Bool) :
    writeBit s i v =
      .ok (setBits (putOrDrop s.mem.bits (i / 32) (withBit ((lookup s.mem.bits (i / 32)).getD 0#32) (i % 32) v)) s) := by
  have h := wordOfBit_lt hp hi
  simp [writeBit, wordOfBit, offsetOfBit, wordWidth, readBits_of_lt h, writeBits, h]

/-- Every stream bit after a bit write. -/
theorem streamBit_setBits {s : State} (h : Rising s.mem.bits) (i j : Nat) (v : Bool) :
    streamBit (setBits (putOrDrop s.mem.bits (i / 32)
      (withBit ((lookup s.mem.bits (i / 32)).getD 0#32) (i % 32) v)) s) j =
      if j = i then v else streamBit s j := by
  simp only [streamBit, setBits_mem, getD_lookup_putOrDrop h]
  by_cases hw : j / 32 = i / 32
  · rw [if_pos hw, getLsbD_withBit _ _ _ _ (Nat.mod_lt _ (by decide))]
    by_cases ho : j % 32 = i % 32
    · have : j = i := by omega
      simp [this]
    · have : j ≠ i := fun e => ho (e ▸ rfl)
      simp [ho, this, hw]
  · have : j ≠ i := fun e => hw (e ▸ rfl)
    simp [hw, this]

/-! ### The canonical form is kept -/

theorem setBits_keeps_memory {s : State} (h : MemoryInv s) {a : Nat} (ha : a < wordCount s.cfg) (w : Word) :
    MemoryInv (setBits (putOrDrop s.mem.bits a w) s) :=
  ⟨⟨rising_putOrDrop h.1.1 a w, putOrDrop_nonzero h.1.2.1 a w, h.1.2.2.1, h.1.2.2.2⟩, putOrDrop_keys h.2 ha w⟩

theorem writeBits_keeps_wf {s t : State} {a : Nat} {w : Word} (h : s.mem.wf) (hw : writeBits s a w = .ok t) :
    t.mem.wf := by
  obtain ⟨-, rfl⟩ := writeBits_eq_ok.mp hw
  exact ⟨rising_putOrDrop h.1 a w, putOrDrop_nonzero h.2.1 a w, h.2.2.1, h.2.2.2⟩

theorem appendSig_keeps_wf {s t : State} {v : Sample} (h : s.mem.wf) (hw : appendSig s v = .ok t) : t.mem.wf := by
  obtain ⟨-, rfl⟩ := appendSig_eq_ok.mp hw
  exact ⟨h.1, h.2.1, rising_put h.2.2.1 _ _, h.2.2.2⟩

/-- The sample appended takes the next index (44_pipeline.md R174, R175). -/
theorem appendSig_keeps_samples {s t : State} {v : Sample} (h : SamplesInv s) (hw : appendSig s v = .ok t) :
    SamplesInv t ∧ t.wrIdx = s.wrIdx + 1 := by
  obtain ⟨hlt, rfl⟩ := appendSig_eq_ok.mp hw
  have hk : ∀ c ∈ s.mem.sig, c.1 < s.wrIdx := fun c hc => by
    have : c.1 ∈ s.mem.sig.map Prod.fst := List.mem_map_of_mem hc
    rw [h.2] at this
    exact List.mem_range.mp this
  refine ⟨⟨hlt, ?_⟩, rfl⟩
  simp [put_past_end hk, h.2, List.range_succ]

theorem setTable_keeps_wf {s : State} {m : Cells 16} {lo : Nat} (h : s.mem.wf) (hm : Rising m) :
    (setTable m lo s).mem.wf := ⟨h.1, h.2.1, h.2.2.1, hm⟩

theorem windowReset_wf (s : State) : (windowReset s).mem.wf := by simp [Memory.wf]

theorem reset_memory_wf (p : Params) : (State.resetOf p).mem.wf := by simp [Memory.wf]

/-! ### The host's events -/

/-- Everything `takeEvent` can do. -/
theorem takeEvent_cases (s : State) :
    (s.pending = [] ∧ takeEvent s = none) ∨
      ∃ e rest, s.pending = e :: rest ∧ takeEvent s = some (e, { s with pending := rest }) := by
  unfold takeEvent
  cases h : s.pending <;> simp

@[simp] theorem takeEvent_present (e : HostEvent) (s : State) : takeEvent (present e s) = some (e, s) := rfl

end Sys2Proof.Machine
end

