-- ==== Sys2Proof/Laws/Bitstream.lean ====
section
/-! SUPPORT. What the autocorrelation engine can do: the count at one lag as a plain sum, the two running values,
and the whole of `autocorrelate`. -/

namespace Sys2Proof.Machine

/-- A word of `BITS` as a plain value. -/
def bitsWord (s : State) (a : Nat) : Word := (lookup s.mem.bits a).getD 0#32

/-- The shifted word of 41_bitstream.md R121 as a plain value. -/
def shiftedWordAt (s : State) (index shift i : Nat) : Word :=
  if shift = 0 then bitsWord s (index + i)
  else bitsWord s (index + i) >>> shift ||| bitsWord s (index + i + 1) <<< (32 - shift)

/-- The sum of 41_bitstream.md R121 as a plain value. -/
def wordCountAt (s : State) (pos : Nat) : Nat :=
  ((List.range (halfWordCount s.cfg)).map
    (fun i => popcount (bitsWord s i ^^^ shiftedWordAt s (pos / 32) (pos % 32) i))).sum

theorem streamBit_eq_bitsWord (s : State) (i : Nat) : streamBit s i = (bitsWord s (i / 32)).getLsbD (i % 32) := rfl

theorem popcount_le (w : Word) : popcount w ≤ 32 := by
  unfold popcount
  exact List.countP_le_length.trans (by simp [wordWidth])

/-- The word read stays inside the buffer, so the shifted word is its plain value (20_memory.md R76). -/
theorem shiftedWord_of_lt {s : State} {index shift i : Nat} (h : index + i + 1 < wordCount s.cfg) :
    shiftedWord s index shift i = .ok (shiftedWordAt s index shift i) := by
  unfold shiftedWord shiftedWordAt
  split
  · simp [readBits_of_lt (show index + i < wordCount s.cfg by omega), bitsWord]
  · simp [readBits_of_lt (show index + i < wordCount s.cfg by omega), readBits_of_lt h, bitsWord, wordWidth]

theorem countWords_of_lt {s : State} {index shift : Nat} (l : List Nat)
    (h : ∀ i ∈ l, index + i + 1 < wordCount s.cfg) :
    countWords s index shift l =
      .ok (l.map (fun i => popcount (bitsWord s i ^^^ shiftedWordAt s index shift i))).sum := by
  induction l with
  | nil => rfl
  | cons i l ih =>
    have hi := h i List.mem_cons_self
    have := ih fun j hj => h j (List.mem_cons_of_mem _ hj)
    simp [countWords, readBits_of_lt (show i < wordCount s.cfg by omega), shiftedWord_of_lt hi, this, bitsWord]

/-- The count at a lag below `HALF_WINDOW` never reads outside the buffer (20_memory.md R76): it is the plain
sum. -/
theorem countAt_of_lt {s : State} (hp : paramsOk s.cfg) {pos : Nat} (h : pos < halfWindow s.cfg) :
    countAt s pos = .ok (wordCountAt s pos) := by
  have hd := derived_sizes hp
  refine countWords_of_lt _ fun i hi => ?_
  have := List.mem_range.mp hi
  simp only [wordWidth]
  omega

theorem sum_map_le {l : List Nat} {f : Nat → Nat} {b : Nat} (h : ∀ i ∈ l, f i ≤ b) :
    (l.map f).sum ≤ b * l.length := by
  induction l with
  | nil => simp
  | cons i l ih =>
    have h1 := h i List.mem_cons_self
    have h2 := ih fun j hj => h j (List.mem_cons_of_mem _ hj)
    simp only [List.map_cons, List.sum_cons, List.length_cons, Nat.mul_succ]
    omega

theorem wordCountAt_le (s : State) (pos : Nat) : wordCountAt s pos ≤ cmpBits s.cfg := by
  have := sum_map_le (l := List.range (halfWordCount s.cfg))
    (f := fun i => popcount (bitsWord s i ^^^ shiftedWordAt s (pos / 32) (pos % 32) i)) (b := 32)
    (fun i _ => popcount_le _)
  simpa [wordCountAt, cmpBits, wordWidth] using this

theorem countsAt_of_lt {s : State} (hp : paramsOk s.cfg) (l : List Nat) (h : ∀ p ∈ l, p < halfWindow s.cfg) :
    countsAt s l = .ok (l.map (fun p => (p, wordCountAt s p))) := by
  induction l with
  | nil => rfl
  | cons p l ih =>
    have h2 := ih fun q hq => h q (List.mem_cons_of_mem _ hq)
    simp [countsAt, countAt_of_lt hp (h p List.mem_cons_self), h2]

/-! ### The running values -/

/-- Everything the two running values can be after some lags (41_bitstream.md R124): the largest count, and the
first of the smallest. -/
theorem extremes_spec {cs : List (Nat × Nat)} (hne : cs ≠ []) :
    ∃ b before after, (extremes cs).best = some b ∧ cs = before ++ b :: after ∧ (∀ x ∈ before, b.2 < x.2) ∧
      (∀ x ∈ cs, b.2 ≤ x.2 ∧ x.2 ≤ (extremes cs).maxCount) ∧ ∃ x ∈ cs, x.2 = (extremes cs).maxCount := by
  induction cs using List.reverseRecOn with
  | nil => exact absurd rfl hne
  | append_singleton cs c ih =>
    have hstep : extremes (cs ++ [c]) = track (extremes cs) c := by simp [extremes]
    rw [hstep]
    rcases cs.eq_nil_or_concat' with rfl | ⟨l, d, rfl⟩
    · refine ⟨c, [], [], rfl, rfl, by simp, ?_, c, by simp, ?_⟩
      · intro x hx; simp at hx; subst hx; exact ⟨le_rfl, by rcases Nat.eq_zero_or_pos x.2 with h | h <;> simp [track, extremes, h]⟩
      · rcases Nat.eq_zero_or_pos c.2 with h | h <;> simp [track, extremes, h]
    obtain ⟨b, before, after, hb, hcs, hfirst, hall, y, hy, hmax⟩ := ih (by simp)
    set cs := l ++ [d] with hcsdef
    by_cases hlt : c.2 < b.2
    · refine ⟨c, cs, [], by simp [track, hb, hlt], rfl, fun x hx => ?_, fun x hx => ?_, ?_⟩
      · exact Nat.lt_of_lt_of_le hlt (hall x hx).1
      · rcases List.mem_append.mp hx with hx | hx
        · have := hall x hx; simp only [track]; split <;> omega
        · simp at hx; subst hx; simp only [track]; split <;> omega
      · have hyb := hall y hy
        refine ⟨y, List.mem_append_left _ hy, ?_⟩
        simp only [track]
        split
        · have := (hall b (by rw [hcs]; simp)).2; omega
        · exact hmax
    · refine ⟨b, before, after ++ [c], by simp [track, hb, hlt], ?_, hfirst, fun x hx => ?_, ?_⟩
      · rw [hcs]; simp
      · rcases List.mem_append.mp hx with hx | hx
        · have := hall x hx; simp only [track]; split <;> omega
        · simp at hx; subst hx; simp only [track]; split <;> omega
      · by_cases hm : (extremes cs).maxCount < c.2
        · exact ⟨c, by simp, by simp [track, hm]⟩
        · exact ⟨y, List.mem_append_left _ hy, by simp [track, hm, hmax]⟩

/-! ### The whole engine -/

/-- Everything `autocorrelate` can do from a start lag below `HALF_WINDOW` (41_bitstream.md R118, R124). -/
theorem autocorrelate_of_lt {s : State} (hp : paramsOk s.cfg) {start : Nat} (h : start < halfWindow s.cfg) :
    ∃ maxCount lag,
      autocorrelate start s = .ok (setBestLag (BitVec.ofNat 32 lag) (setMaxCount (BitVec.ofNat 32 maxCount)
        (setTable ((lagsFrom s start).map (fun p => (p, BitVec.ofNat 16 (wordCountAt s p)))) start s)),
        maxCount, lag) ∧
      start ≤ lag ∧ lag < halfWindow s.cfg ∧
      (∀ p, start ≤ p → p < halfWindow s.cfg → wordCountAt s lag ≤ wordCountAt s p ∧ wordCountAt s p ≤ maxCount) ∧
      (∀ p, start ≤ p → p < lag → wordCountAt s lag < wordCountAt s p) ∧
      (∃ p, start ≤ p ∧ p < halfWindow s.cfg ∧ wordCountAt s p = maxCount) ∧ maxCount ≤ cmpBits s.cfg := by
  have hmem : ∀ p, p ∈ lagsFrom s start ↔ start ≤ p ∧ p < halfWindow s.cfg := fun p => by
    simp only [lagsFrom, List.mem_range'_1]; omega
  have hcounts := countsAt_of_lt hp (lagsFrom s start) fun p hp => ((hmem p).mp hp).2
  set cs := (lagsFrom s start).map (fun p => (p, wordCountAt s p)) with hcs
  have hin : ∀ p, start ≤ p → p < halfWindow s.cfg → (p, wordCountAt s p) ∈ cs := fun p h1 h2 =>
    List.mem_map_of_mem (f := fun p => (p, wordCountAt s p)) ((hmem p).mpr ⟨h1, h2⟩)
  have hout : ∀ x ∈ cs, start ≤ x.1 ∧ x.1 < halfWindow s.cfg ∧ x.2 = wordCountAt s x.1 := fun x hx => by
    obtain ⟨p, hp, rfl⟩ := List.mem_map.mp hx
    exact ⟨((hmem p).mp hp).1, ((hmem p).mp hp).2, rfl⟩
  have hne : cs ≠ [] := List.ne_nil_of_mem (hin start le_rfl h)
  obtain ⟨⟨lag, c⟩, before, after, hb, hsplit, hfirst, hall, y, hy, hmax⟩ := extremes_spec hne
  obtain ⟨hl1, hl2, hc⟩ := hout (lag, c) (by rw [hsplit]; simp)
  simp only at hl1 hl2 hc
  subst hc
  refine ⟨(extremes cs).maxCount, lag, ?_, hl1, hl2, fun p h1 h2 => hall _ (hin p h1 h2), fun p h1 h2 => ?_, ?_, ?_⟩
  · have htab : tableOf cs = (lagsFrom s start).map (fun p => (p, BitVec.ofNat 16 (wordCountAt s p))) := by
      simp [tableOf, hcs, Function.comp_def]
    simp only [autocorrelate, hcounts, ok_bind, hb, htab, pure_eq_ok]
  · have hp' := hin p h1 (by omega)
    rw [hsplit] at hp'
    rcases List.mem_append.mp hp' with hp' | hp'
    · exact hfirst _ hp'
    · exfalso
      have hrise : cs.Pairwise (fun x y => x.1 < y.1) := by
        rw [hcs]; exact List.pairwise_map.mpr List.pairwise_lt_range'
      rw [hsplit, List.pairwise_append] at hrise
      rcases List.mem_cons.mp hp' with heq | hp'
      · have : p = lag := congrArg Prod.fst heq
        omega
      · have := (List.pairwise_cons.mp hrise.2.1).1 _ hp'
        simp only at this
        omega
  · obtain ⟨h1, h2, h3⟩ := hout y hy
    exact ⟨y.1, h1, h2, h3.symm.trans hmax⟩
  · rw [← hmax, (hout y hy).2.2]; exact wordCountAt_le s y.1

/-- The table an autocorrelation writes, element by element. -/
theorem lookup_new_table (s : State) (start p : Nat) :
    lookup ((lagsFrom s start).map (fun p => (p, BitVec.ofNat 16 (wordCountAt s p)))) p =
      if start ≤ p ∧ p < halfWindow s.cfg then some (BitVec.ofNat 16 (wordCountAt s p)) else none := by
  split
  · next h =>
    have hmem : p ∈ lagsFrom s start := by simp only [lagsFrom, List.mem_range'_1]; omega
    exact lookup_map_of_nodup (fun p => p) (fun p => BitVec.ofNat 16 (wordCountAt s p)) (lagsFrom s start)
      (by simpa [lagsFrom] using List.nodup_range' (s := start) (n := halfWindow s.cfg - start)) hmem
  · next h =>
    rw [lookup_eq_none_iff]
    simp only [List.map_map, Function.comp_def, List.map_id', lagsFrom, List.mem_range'_1]
    omega

end Sys2Proof.Machine
end

