-- ==== Sys2Proof/Laws/Encoding.lean ====
section
/-! SUPPORT. The words of the four formats, bit by bit (30_encoding.md R82 to R85), and what a row's mask keeps of
them. -/

namespace Sys2Proof

/-- The bits of format N. -/
theorem formatN_bit (op : BitVec 4) (k : Nat) :
    (formatN op).getLsbD k = if k < 28 then false else op.getLsbD (k - 28) := by
  unfold formatN
  rw [BitVec.getLsbD_append]
  split <;> simp

/-- The bits of format S (30_encoding.md R83). -/
theorem formatS_bit (op : BitVec 4) (smp : Sample) (k : Nat) :
    (formatS op smp).getLsbD k =
      if k < 16 then smp.getLsbD k else if k < 28 then false else op.getLsbD (k - 28) := by
  unfold formatS
  rw [BitVec.getLsbD_append, BitVec.getLsbD_append]
  split_ifs <;> first | rfl | omega | simp

/-- The bits of format I (30_encoding.md R84). -/
theorem formatI_bit (op : BitVec 4) (v : Bool) (idx k : Nat) :
    (formatI op v idx).getLsbD k =
      if k < 16 then idx.testBit k else if k < 17 then v else if k < 28 then false else op.getLsbD (k - 28) := by
  unfold formatI
  rw [BitVec.getLsbD_append, BitVec.getLsbD_append, BitVec.getLsbD_append]
  by_cases h16 : k < 16
  · rw [if_pos h16, if_pos h16, BitVec.getLsbD_ofNat]; simp [h16]
  · by_cases h17 : k < 17
    · obtain rfl : k = 16 := by omega
      simp
    · have h1 : ¬ k - 16 < 1 := by omega
      by_cases h28 : k < 28
      · have h2 : k - 16 - 1 < 11 := by omega
        simp [h16, h17, h28, h1, h2]
      · have h2 : ¬ k - 16 - 1 < 11 := by omega
        have h3 : k - 16 - 1 - 11 = k - 28 := by omega
        rw [if_neg h16, if_neg h17, if_neg h28, if_neg h16, if_neg h1, if_neg h2, h3]

/-- The bits of format R (30_encoding.md R85). -/
theorem formatR_bit (op : BitVec 4) (reg : Reg) (imm : BitVec 24) (k : Nat) :
    (formatR op reg imm).getLsbD k =
      if k < 24 then imm.getLsbD k else if k < 28 then (regNum reg).getLsbD (k - 24) else op.getLsbD (k - 28) := by
  unfold formatR
  rw [BitVec.getLsbD_append, BitVec.getLsbD_append]
  split_ifs <;> first | rfl | omega

/-- Format S keeps the opcode and the must-be-zero bits under its mask. -/
theorem formatS_fits (op : BitVec 4) (smp : Sample) : formatS op smp &&& 0xFFFF0000#32 = formatN op := by
  apply BitVec.eq_of_getLsbD_eq
  intro k hk
  rw [BitVec.getLsbD_and, formatS_bit, formatN_bit]
  interval_cases k <;> simp

/-- Format I with `v = 0` does so too. -/
theorem formatI_fits (op : BitVec 4) (idx : Nat) : formatI op false idx &&& 0xFFFF0000#32 = formatN op := by
  apply BitVec.eq_of_getLsbD_eq
  intro k hk
  rw [BitVec.getLsbD_and, formatI_bit, formatN_bit]
  interval_cases k <;> simp

/-- Format I with any `v`, under the mask of `BSET`. -/
theorem formatI_fits_bset (op : BitVec 4) (v : Bool) (idx : Nat) :
    formatI op v idx &&& 0xFFFE0000#32 = formatN op := by
  apply BitVec.eq_of_getLsbD_eq
  intro k hk
  rw [BitVec.getLsbD_and, formatI_bit, formatN_bit]
  interval_cases k <;> simp

/-- Format R keeps the opcode under the mask of `LDR`. -/
theorem formatR_fits (op : BitVec 4) (reg : Reg) (imm : BitVec 24) :
    formatR op reg imm &&& 0xF0000000#32 = formatN op := by
  apply BitVec.eq_of_getLsbD_eq
  intro k hk
  rw [BitVec.getLsbD_and, formatR_bit, formatN_bit]
  interval_cases k <;> simp

end Sys2Proof
end

