-- ==== Sys2Proof/Laws/Harmonic.lean ====
section
/-! SUPPORT. What the search of the harmonic corrector can do. -/

namespace Sys2Proof.Machine

theorem readTable_eq_tableAt {s : State} {p : Nat} {c : Count} (h : readTable s p = .ok c) :
    c.toNat = tableAt s p := by
  obtain ⟨-, h⟩ := readTable_eq_ok.mp h
  simp [tableAt, h]

/-- The threshold test (42_harmonic.md R146). -/
theorem strong_iff (t maxCount : Nat) : strong t maxCount = true ↔ 20 * t ≤ 3 * maxCount := decide_eq_true_iff

/-- Everything the echo check can do when every echo holds a value. -/
theorem echoesStrong_of_values {s : State} {maxCount candidate : Nat} (l : List Nat)
    (h : ∀ k ∈ l, ∃ c, readTable s (k + candidate) = .ok c) :
    ∃ b, echoesStrong s maxCount candidate l = .ok b ∧
      (b = true ↔ ∀ k ∈ l, 20 * tableAt s (k + candidate) ≤ 3 * maxCount) := by
  induction l with
  | nil => exact ⟨true, rfl, by simp⟩
  | cons k l ih =>
    obtain ⟨c, hc⟩ := h k List.mem_cons_self
    obtain ⟨b, hb, hiff⟩ := ih fun j hj => h j (List.mem_cons_of_mem _ hj)
    refine ⟨strong c.toNat maxCount && b, by simp [echoesStrong, hc, hb], ?_⟩
    rw [Bool.and_eq_true, strong_iff, hiff, readTable_eq_tableAt hc]
    simp

theorem mem_echoOffsets (divisor k : Nat) : k ∈ echoOffsets divisor ↔ 1 ≤ k ∧ k < divisor := by
  simp only [echoOffsets, List.mem_range'_1]; omega

/-- Everything the loop over divisors can do when every echo it looks at holds a value (42_harmonic.md R142):
the largest divisor whose echoes are all strong gives the answer, and with none the raw lag is. -/
theorem searchDivisor_of_values {s : State} {maxCount rawLag : Nat} (n : Nat)
    (h : ∀ d, 1 ≤ d → d ≤ n → ∀ k, 1 ≤ k → k < d → ∃ c, readTable s (k + rawLag / d) = .ok c) :
    ∃ c, searchDivisor s maxCount rawLag n = .ok c ∧
      ((∃ d, 1 ≤ d ∧ d ≤ n ∧ c = rawLag / d ∧
          (∀ k < d, 1 ≤ k → 20 * tableAt s (k + rawLag / d) ≤ 3 * maxCount) ∧
          ∀ d', d < d' → d' ≤ n → ¬ ∀ k < d', 1 ≤ k → 20 * tableAt s (k + rawLag / d') ≤ 3 * maxCount) ∨
        (c = rawLag ∧ ∀ d', 1 ≤ d' → d' ≤ n →
          ¬ ∀ k < d', 1 ≤ k → 20 * tableAt s (k + rawLag / d') ≤ 3 * maxCount)) := by
  induction n with
  | zero => exact ⟨rawLag, rfl, .inr ⟨rfl, by omega⟩⟩
  | succ n ih =>
    obtain ⟨b, hb, hiff⟩ := echoesStrong_of_values (s := s) (maxCount := maxCount)
      (candidate := rawLag / (n + 1)) (echoOffsets (n + 1)) fun k hk => by
        obtain ⟨h1, h2⟩ := (mem_echoOffsets _ _).mp hk
        exact h (n + 1) (by omega) le_rfl k h1 h2
    have hpass : b = true ↔ ∀ k < n + 1, 1 ≤ k → 20 * tableAt s (k + rawLag / (n + 1)) ≤ 3 * maxCount := by
      rw [hiff]
      exact ⟨fun hk k h1 h2 => hk k ((mem_echoOffsets _ _).mpr ⟨h2, h1⟩),
        fun hk k hm => hk k ((mem_echoOffsets _ _).mp hm).2 ((mem_echoOffsets _ _).mp hm).1⟩
    cases b with
    | true =>
      exact ⟨rawLag / (n + 1), by simp [searchDivisor, hb],
        .inl ⟨n + 1, by omega, le_rfl, rfl, hpass.mp rfl, by omega⟩⟩
    | false =>
      have hfail := fun hk => Bool.false_ne_true (hpass.mpr hk)
      obtain ⟨c, hc, hcase⟩ := ih fun d h1 h2 => h d h1 (by omega)
      refine ⟨c, by simp [searchDivisor, hb, hc], ?_⟩
      rcases hcase with ⟨d, h1, h2, h3, h4, h5⟩ | ⟨h1, h2⟩
      · refine .inl ⟨d, h1, by omega, h3, h4, fun d' hd hle => ?_⟩
        rcases Nat.lt_or_ge d' (n + 1) with hlt | hge
        · exact h5 d' hd (by omega)
        · obtain rfl : d' = n + 1 := by omega
          exact hfail
      · refine .inr ⟨h1, fun d' hd hle => ?_⟩
        rcases Nat.lt_or_ge d' (n + 1) with hlt | hge
        · exact h2 d' hd (by omega)
        · obtain rfl : d' = n + 1 := by omega
          exact hfail

/-- The first precondition of `HCORR` in the words of 42_harmonic.md R143. -/
theorem correctionReady_iff (s : State) :
    correctionReady s = true ↔
      s.vMaxc = true ∧ s.vBlag = true ∧ s.tblValid = true ∧ s.tblLo ≤ s.cfg.minPeriod := by
  simp [correctionReady, and_assoc]

end Sys2Proof.Machine
end

