-- ==== Sys2Proof/Laws/PerInstr.lean ====
section
/-! SUPPORT. Statements made for every command, one lemma per constructor of `Instr`. -/

namespace Sys2Proof.Laws.EncodeFits

/-- The word of a well-formed command has the fixed bits of the command's row, at the row's values
(30_encoding.md R86). -/
def Statement (i : Instr) : Prop := wellFormed i = true → (encode i) &&& (rowOf i).mask = (rowOf i).pattern

theorem nop : Statement .nop := fun _ => by decide
theorem wrst : Statement .wrst := fun _ => by decide
theorem zc (smp : Sample) : Statement (.zc smp) := fun _ => formatS_fits _ smp
theorem push (smp : Sample) : Statement (.push smp) := fun _ => formatS_fits _ smp
theorem bget (idx : Nat) : Statement (.bget idx) := fun _ => formatI_fits _ idx
theorem bset (idx : Nat) (v : Bool) : Statement (.bset idx v) := fun _ => formatI_fits_bset _ v idx
theorem acorr (idx : Nat) : Statement (.acorr idx) := fun _ => formatI_fits _ idx
theorem tget (idx : Nat) : Statement (.tget idx) := fun _ => formatI_fits _ idx
theorem hcorr : Statement .hcorr := fun _ => by decide
theorem refine : Statement .refine := fun _ => by decide
theorem run : Statement .run := fun _ => by decide
theorem rdr (reg : Reg) : Statement (.rdr reg) := fun _ => by cases reg <;> decide
theorem ldr (reg : Reg) (imm : BitVec 24) : Statement (.ldr reg imm) := fun _ => formatR_fits _ reg imm
theorem wget (idx : Nat) : Statement (.wget idx) := fun _ => formatI_fits _ idx

end Sys2Proof.Laws.EncodeFits
end

