-- ==== Sys2Proof/Laws/Refiner.lean ====
section
/-! SUPPORT. What the scan and the interpolation of the refiner can do. -/

namespace Sys2Proof.Machine

theorem rawAt_of_lt {s : State} (h : SamplesInv s) {i : Nat} (hi : i < s.wrIdx) :
    rawAt s i = .ok (sampleAt s i) := by
  simp [rawAt, readSig_of_lt h hi, sampleAt]

/-- The samples are 16-bit two's complement (00_scope.md R14). -/
theorem sampleAt_bounds (s : State) (i : Nat) : -32768 ≤ sampleAt s i ∧ sampleAt s i ≤ 32767 := by
  have h1 := BitVec.le_toInt ((lookup s.mem.sig i).getD 0#16)
  have h2 := BitVec.toInt_lt (x := (lookup s.mem.sig i).getD 0#16)
  simp only [sampleAt, raw]
  constructor <;> omega

/-- Everything the scan can do over samples that hold a value (43_refiner.md R153): the first index whose sample
is positive while the one before is not, or none. -/
theorem scanEdge_of_values {s : State} (hs : SamplesInv s) (n i : Nat) (hi : i + n ≤ s.wrIdx) :
    ∃ r, scanEdge s n i = .ok r ∧
      (∀ k, r = some k → i ≤ k ∧ k < i + n ∧ 0 < sampleAt s k ∧ sampleAt s (k - 1) ≤ 0 ∧
        ∀ j, i ≤ j → j < k → ¬ (0 < sampleAt s j ∧ sampleAt s (j - 1) ≤ 0)) ∧
      (r = none → ∀ j, i ≤ j → j < i + n → ¬ (0 < sampleAt s j ∧ sampleAt s (j - 1) ≤ 0)) := by
  induction n generalizing i with
  | zero => exact ⟨none, rfl, by simp, by omega⟩
  | succ n ih =>
    have hr1 := rawAt_of_lt hs (show i < s.wrIdx by omega)
    have hr0 := rawAt_of_lt hs (show i - 1 < s.wrIdx by omega)
    by_cases he : 0 < sampleAt s i ∧ sampleAt s (i - 1) ≤ 0
    · refine ⟨some i, by simp [scanEdge, hr1, hr0, he], fun k hk => ?_, by simp⟩
      obtain rfl : i = k := by simpa using hk
      exact ⟨le_rfl, by omega, he.1, he.2, by omega⟩
    · obtain ⟨r, hr, hsome, hnone⟩ := ih (i + 1) (by omega)
      refine ⟨r, by simp only [scanEdge, hr1, hr0, ok_bind, if_neg he, hr], fun k hk => ?_, fun hk j h1 h2 => ?_⟩
      · obtain ⟨h1, h2, h3, h4, h5⟩ := hsome k hk
        refine ⟨by omega, by omega, h3, h4, fun j h6 h7 => ?_⟩
        rcases Nat.eq_or_lt_of_le h6 with rfl | h6
        · exact he
        · exact h5 j (by omega) h7
      · rcases Nat.eq_or_lt_of_le h1 with rfl | h1
        · exact he
        · exact hnone hk j (by omega) (by omega)

/-- The result for two edges inside the samples taken (43_refiner.md R157 to R159). -/
theorem refineEdges_of_values {s : State} (hs : SamplesInv s) {i1 i2 : Nat} (h1 : i1 < s.wrIdx)
    (h2 : i2 < s.wrIdx) :
    refineEdges s i1 i2 = .ok
      (if periodN s i1 i2 ≤ 0 then .undetermined
       else .frequency i1 i2
        (s.cfg.sampleRate * 4096 * (periodD s i1 i2).toNat / (periodN s i1 i2).toNat)) := by
  simp [refineEdges, rawAt_of_lt hs h1, rawAt_of_lt hs h2, rawAt_of_lt hs (show i1 - 1 < s.wrIdx by omega),
    rawAt_of_lt hs (show i2 - 1 < s.wrIdx by omega), interpolate, periodNum, periodDen, periodN, periodD, freqFrac]

/-- The ways a refinement can end (43_refiner.md R151, R164). -/
theorem refineAt_cases {s : State} {lag : Nat} {r : Refinement} (h : refineAt s lag = .ok r) :
    (windowSize s.cfg ≤ lag ∧ r = .undetermined) ∨
      (lag < windowSize s.cfg ∧
        ((nextEdge s 0 = .ok none ∧ r = .undetermined) ∨
          ∃ i1, nextEdge s 0 = .ok (some i1) ∧
            ((nextEdge s (lag - 1) = .ok none ∧ r = .undetermined) ∨
              ∃ i2, nextEdge s (lag - 1) = .ok (some i2) ∧ refineEdges s i1 i2 = .ok r))) := by
  unfold refineAt at h
  split at h
  · next hl => exact .inl ⟨hl, by simpa [eq_comm] using h⟩
  · next hl =>
    refine .inr ⟨by omega, ?_⟩
    obtain ⟨r1, h1, h⟩ := bind_eq_ok.mp h
    cases r1 with
    | none => exact .inl ⟨h1, by simpa [eq_comm] using h⟩
    | some i1 =>
      refine .inr ⟨i1, h1, ?_⟩
      obtain ⟨r2, h2, h⟩ := bind_eq_ok.mp h
      cases r2 with
      | none => exact .inl ⟨h2, by simpa [eq_comm] using h⟩
      | some i2 => exact .inr ⟨i2, h2, h⟩

/-! ### The result written -/

theorem writeResult_undetermined (s : State) :
    writeResult .undetermined s = respond (.ok 0#32) (setResult true 0#32 0#32 0#32 s) := rfl

theorem writeResult_frequency (i1 i2 q : Nat) (s : State) :
    writeResult (.frequency i1 i2 q) s = respond (.ok (BitVec.ofNat 32 q))
      (setResult false (BitVec.ofNat 32 i1) (BitVec.ofNat 32 i2) (BitVec.ofNat 32 q) s) := rfl

/-- A result leaves the memories, the samples taken, the hand-over registers and the parameters alone. -/
theorem writeResult_frame (r : Refinement) (s : State) :
    (writeResult r s).mem = s.mem ∧ (writeResult r s).wrIdx = s.wrIdx ∧ (writeResult r s).cfg = s.cfg ∧
      (writeResult r s).latched = s.latched ∧ (writeResult r s).corrLag = s.corrLag ∧
      (writeResult r s).vClag = s.vClag ∧ (writeResult r s).resValid = true := by
  cases r <;> simp [writeResult]

end Sys2Proof.Machine
end

