-- ==== Sys2Proof/Tests/Slice0.lean ====
section
/-! SUPPORT. Tests: ill-formed terms, the decoding of words written out from 30_encoding.md, single steps with the
answers of 95_test_vectors.md and of the worked examples, and a witness for every statement that has hypotheses. -/

namespace Sys2Proof.Tests

open Sys2Proof Sys2Proof.Machine

/- One theorem at a time: each kernel evaluation would otherwise hold a thread of its own. -/
set_option Elab.async false

/-! ### Well-formedness: each check refuses an ill-formed term -/

theorem test_wellFormed_bget : wellFormed (.bget 65535) = true ∧ wellFormed (.bget 65536) = false := by decide
theorem test_wellFormed_bset : wellFormed (.bset 65535 true) = true ∧ wellFormed (.bset 65536 true) = false := by
  decide
theorem test_wellFormed_acorr : wellFormed (.acorr 65535) = true ∧ wellFormed (.acorr 65536) = false := by decide
theorem test_wellFormed_tget : wellFormed (.tget 65535) = true ∧ wellFormed (.tget 65536) = false := by decide
theorem test_wellFormed_wget : wellFormed (.wget 65535) = true ∧ wellFormed (.wget 65536) = false := by decide

/-! ### Decoding: one word of every command, its bits written out from 30_encoding.md R82 to R86 -/

theorem test_decode_nop : decode 0b00000000000000000000000000000000#32 = .ok .nop := by decide
theorem test_decode_wrst : decode 0b00010000000000000000000000000000#32 = .ok .wrst := by decide
theorem test_decode_zc : decode 0b00100000000000001111001100110100#32 = .ok (.zc (BitVec.ofInt 16 (-3276))) := by
  decide
theorem test_decode_push : decode 0b00110000000000001101001010111111#32 = .ok (.push (BitVec.ofInt 16 (-11585))) := by
  decide
theorem test_decode_bget : decode 0b01000000000000000000000001111111#32 = .ok (.bget 127) := by decide
theorem test_decode_bset : decode 0b01010000000000010000000000100101#32 = .ok (.bset 37 true) := by decide
theorem test_decode_bclr : decode 0b01010000000000000000000000100101#32 = .ok (.bset 37 false) := by decide
theorem test_decode_acorr : decode 0b01100000000000000000000000000100#32 = .ok (.acorr 4) := by decide
theorem test_decode_tget : decode 0b01110000000000001000000000000001#32 = .ok (.tget 32769) := by decide
theorem test_decode_hcorr : decode 0b10000000000000000000000000000000#32 = .ok .hcorr := by decide
theorem test_decode_refine : decode 0b10010000000000000000000000000000#32 = .ok .refine := by decide
theorem test_decode_run : decode 0b10100000000000000000000000000000#32 = .ok .run := by decide
theorem test_decode_rdr : decode 0b10111101000000000000000000000000#32 = .ok (.rdr .cfgWindow) := by decide
theorem test_decode_ldr : decode 0b11000110000000000000000010000000#32 = .ok (.ldr .corrLag 128#24) := by decide
theorem test_decode_wget : decode 0b11010000000000000000000000000011#32 = .ok (.wget 3) := by decide

/-- Every register number of 10_state.md R30 in the field of `RDR`. -/
theorem test_decode_registers :
    (List.range 16).map (fun n => decode (BitVec.ofNat 32 (0xB0000000 + n * 0x01000000))) =
      [Reg.status, .err, .errCmd, .wrIdx, .maxCount, .bestLag, .corrLag, .tblLo, .edge0, .edge1, .freq,
        .reserved11, .cfgRate, .cfgWindow, .cfgMinp, .cfgMaxp].map (fun r => Except.ok (.rdr r)) := by decide

/-- The malformed words of V-DEC (95_test_vectors.md). -/
theorem test_decode_malformed :
    [0x00000001#32, 0x08000000#32, 0x10000001#32, 0x20010000#32, 0x2FFF0000#32, 0x40010000#32, 0x50020000#32,
      0x60010004#32, 0x70010004#32, 0x80000001#32, 0x90000100#32, 0xA0800000#32, 0xB0000001#32, 0xD0010000#32,
      0xE0000000#32, 0xF0000000#32, 0xFFFFFFFF#32].all
        (fun w => match decode w with | .ok _ => false | .error _ => true) = true := by decide

/-- The table's word, given as a number of 32 bits. -/
theorem test_decodeTableWord : decodeTableWord 32 0xC4FFFFFF = some (.ldr .maxCount 0xFFFFFF#24) ∧
    decodeTableWord 32 0xE0000000 = none := by decide

/-! ### Small states -/

/-- The response of a step. -/
def rspOf : Out → Option Response
  | .next t => t.rsp
  | _ => none

/-- The state a step leads to. -/
def nextOf : Out → State
  | .next t => t
  | _ => State.reset

def isNext : Out → Bool
  | .next _ => true
  | _ => false

theorem exists_next (o : Out) (h : isNext o = true) : o = .next (nextOf o) := by
  cases o with
  | next t => rfl
  | fault f => cases h
  | refused r => cases h

/-- The response to a command word in a state. -/
def answer (cw : Nat) (s : State) : Option Response := rspOf (step (s.withFetchWord 32 cw))

/-- The state a command word leads to. -/
def after (cw : Nat) (s : State) : State := nextOf (step (s.withFetchWord 32 cw))

/-- The samples of a window as a listed memory. -/
def listed (smps : List Int) : Cells 16 := (List.range smps.length).zip (smps.map (BitVec.ofInt 16))

/-- A block that holds the given samples, an all-zero stream, and the given corrected lag. -/
def holding (smps : List Int) (lag : Nat) : State :=
  { State.reset with
    mem := { bits := [], sig := listed smps, table := [] }
    wrIdx := smps.length
    corrLag := BitVec.ofNat 32 lag
    vClag := true }

/-- Window B of V-RF-1: edges at 3 and 23 only. -/
def windowB : List Int :=
  List.replicate 3 (-100) ++ List.replicate 7 300 ++ List.replicate 12 (-300) ++ [-200] ++ List.replicate 105 200

/-- The stream of V-AC-1, of period 8. -/
def period8 : State :=
  { State.reset with
    mem := { bits := [(0, 0x0F0F0F0F#32), (1, 0x0F0F0F0F#32), (2, 0x0F0F0F0F#32), (3, 0x0F0F0F0F#32)],
             sig := [], table := [] } }

/-- The stream of V-AC-3. -/
def irregular : State :=
  { State.reset with
    mem := { bits := [(0, 0xDEADBEEF#32), (1, 0x12345678#32), (2, 0x0F1E2D3C#32), (3, 0xCAFEF00D#32)],
             sig := [], table := [] } }

/-- The state of V-AC-1 after `ACORR 4`, with the hand-over registers loaded as given. -/
def tabled (maxCount bestLag : Nat) : State :=
  { (after 0x60000004 period8) with
    maxCount := BitVec.ofNat 32 maxCount
    bestLag := BitVec.ofNat 32 bestLag
    rsp := none }

/-- The same block with another count at lag 4. -/
def otherBelow (s : State) : State := { s with mem := { s.mem with table := put s.mem.table 4 1#16 } }

/-- A block with three samples taken, the latch high, and bit 3 of the stream set by an earlier `BSET`. -/
def threeTaken : State :=
  { State.reset with
    latched := true
    mem := { bits := [(0, 0x0000000E#32)], sig := [(0, 0xD2BF#16), (1, 0x0A03#16), (2, 0xF5FD#16)], table := [] }
    wrIdx := 3 }

/-- The same block after a response. -/
def respondedTo (s : State) : State := respond (.fault .operandRange) s

/-- A block with a fault recorded. -/
def faulted : State := { State.reset with errCode := 3#4, errCmd := 0x40000080#32 }

/-! ### One step each, expected answers from the spec -/

/-- 45_system.md R186. -/
theorem test_nop : answer 0x00000000 faulted = some (.ok 0#32) ∧
    after 0x00000000 faulted = { faulted with rsp := some (.ok 0#32) } := by decide +kernel

/-- 44_pipeline.md R171, corner case: after `WRST` with a fault recorded `STATUS` is `0x00000100`. -/
theorem test_wrst : answer 0x10000000 threeTaken = some (.ok 0#32) ∧ (after 0x10000000 threeTaken).wrIdx = 0 ∧
    (after 0x10000000 threeTaken).mem.bits = [] ∧
    answer 0xB0000000 (after 0x10000000 faulted) = some (.ok 0x00000100#32) := by decide +kernel

/-- V-ZC-1: the two sides of the lower threshold, from high. -/
theorem test_zc : answer 0x2000F334 threeTaken = some (.ok 1#32) ∧ answer 0x2000F333 threeTaken = some (.ok 0#32) ∧
    answer 0x20000000 threeTaken = some (.ok 1#32) ∧ answer 0x20000000 State.reset = some (.ok 0#32) ∧
    answer 0x20000001 State.reset = some (.ok 1#32) ∧ answer 0x20008000 threeTaken = some (.ok 0#32) := by
  decide +kernel

/-- V-PL-1 line 4, with the bit at the same index set before: `BITS[0]` becomes 6 (44_pipeline.md R174). -/
theorem test_push : answer 0x3000E2F2 threeTaken = some (.ok 0#32) ∧
    (after 0x3000E2F2 threeTaken).mem.bits = [(0, 0x00000006#32)] ∧ (after 0x3000E2F2 threeTaken).wrIdx = 4 ∧
    (after 0x3000E2F2 threeTaken).latched = false ∧
    lookup (after 0x3000E2F2 threeTaken).mem.sig 3 = some 0xE2F2#16 := by decide +kernel

/-- V-PL-2 line 134: a sample too many. -/
theorem test_push_full : answer 0x30000001 (holding windowB 20) = some (.fault .windowFull) := by decide +kernel

/-- V-BS-1 lines 17, 20; bit 3 of `0x0F0F0F0F` is 1, bit 4 is 0. -/
theorem test_bget : answer 0x40000003 period8 = some (.ok 1#32) ∧ answer 0x40000004 period8 = some (.ok 0#32) ∧
    answer 0x40000080 period8 = some (.fault .indexRange) ∧ answer 0x4000FFFF period8 = some (.fault .indexRange) := by
  decide +kernel

/-- V-BS-1 lines 1, 6, 12: bit 37 is offset 5 of word 1, bit 127 offset 31 of word 3. -/
theorem test_bset : (after 0x50010025 State.reset).mem.bits = [(1, 0x00000020#32)] ∧
    (after 0x5001007F State.reset).mem.bits = [(3, 0x80000000#32)] ∧
    (after 0x50000025 (after 0x50010025 State.reset)).mem.bits = [] ∧
    answer 0x50010080 State.reset = some (.fault .indexRange) := by decide +kernel

/-- V-AC-1 line 1 and its table at both ends. -/
theorem test_acorr : answer 0x60000004 period8 = some (.ok 0x00200008#32) ∧
    (after 0x60000004 period8).mem.table.take 6 =
      [(4, 32#16), (5, 24#16), (6, 16#16), (7, 8#16), (8, 0#16), (9, 8#16)] ∧
    lookup (after 0x60000004 period8).mem.table 63 = some 8#16 := by decide +kernel

/-- V-AC-3, `ACORR 63`: the one lag 63, with words from two sides of a boundary. -/
theorem test_acorr_crossWord :
    answer 0x6000003F irregular = some (.ok 0x000E003F#32) ∧
    answer 0x60000040 State.reset = some (.fault .operandRange) := by decide +kernel

/-- V-AC-1 lines 3, 9, 10. -/
theorem test_tget : answer 0x70000005 (tabled 32 8) = some (.ok 24#32) ∧
    answer 0x70000003 (tabled 32 8) = some (.fault .unwritten) ∧
    answer 0x70000040 (tabled 32 8) = some (.fault .indexRange) := by decide +kernel

/-- V-HC-3, V-HC-4: the threshold exactly met and just missed. -/
theorem test_hcorr_threshold : answer 0x80000000 (tabled 54 16) = some (.ok 8#32) ∧
    answer 0x80000000 (tabled 53 16) = some (.ok 16#32) := by decide +kernel

/-- V-HC-5, V-HC-7, V-HC-10, V-HC-11: the largest divisor wins; floor quotient; lag 0; lag out of range. -/
theorem test_hcorr_search : answer 0x80000000 (tabled 200 24) = some (.ok 4#32) ∧
    answer 0x80000000 (tabled 32 63) = some (.ok 31#32) ∧ answer 0x80000000 (tabled 32 0) = some (.ok 0#32) ∧
    answer 0x80000000 (tabled 32 64) = some (.fault .operandRange) := by decide +kernel

/-- V-RF-1, V-RF-4d: the worked example, and an edge exactly where the second scan starts. -/
theorem test_refine : answer 0x90000000 (holding windowB 20) = some (.ok 0x0018B0FC#32) ∧
    answer 0x90000000 (holding windowB 24) = some (.ok 0x0018B0FC#32) ∧
    (after 0x90000000 (holding windowB 20)).edge0 = 3#32 ∧ (after 0x90000000 (holding windowB 20)).edge1 = 23#32 := by
  decide +kernel

/-- V-RF-4b, V-RF-4e, V-RF-5a, V-RF-6: the undetermined cases and lag 0. -/
theorem test_refine_undetermined :
    [4, 25, 127, 128, 16777215].all (fun l => answer 0x90000000 (holding windowB l) == some (.ok 0#32) &&
      (after 0x90000000 (holding windowB l)).undet) = true ∧
    answer 0x90000000 (holding windowB 0) = some (.fault .operandRange) := by decide +kernel

/-- A silent stream: `RUN` corrects to `MIN_PERIOD` (44_pipeline.md R178, corner case), so on window B the second scan
starts at 3 and finds the first edge again: undetermined, `STATUS` as V-RF-4b with the marks of `ACORR` and the latch low. -/
theorem test_run : answer 0xA0000000 (holding windowB 0) = some (.ok 0#32) ∧
    answer 0xB0000000 (after 0xA0000000 (holding windowB 0)) = some (.ok 0x000000FE#32) ∧
    answer 0xB6000000 (after 0xA0000000 (holding windowB 0)) = some (.ok 4#32) := by decide +kernel

/-- V-DEC: `RUN` fresh from reset. -/
theorem test_run_short : answer 0xA0000000 State.reset = some (.fault .windowShort) := by decide +kernel

/-- V-AC-1 lines 11 to 13, V-DEC for set S, and V-BS-1 lines 21, 22. -/
theorem test_rdr : answer 0xB4000000 (tabled 32 8) = some (.ok 32#32) ∧ answer 0xB7000000 (tabled 32 8) = some (.ok 4#32) ∧
    answer 0xBF000000 State.reset = some (.ok 0x40#32) ∧ answer 0xBD000000 State.reset = some (.ok 128#32) ∧
    answer 0xBB000000 State.reset = some (.fault .regAccess) ∧ answer 0xBA000000 State.reset = some (.fault .unwritten) ∧
    answer 0xB1000000 faulted = some (.ok 3#32) ∧ answer 0xB2000000 faulted = some (.ok 0x40000080#32) := by
  decide +kernel

/-- V-DEC: `LDR MAX_COUNT, 16777215` and `LDR CFG_MAXP, 0`. -/
theorem test_ldr : (after 0xC4FFFFFF State.reset).maxCount = 0x00FFFFFF#32 ∧ (after 0xC4FFFFFF State.reset).vMaxc = true ∧
    answer 0xCF000000 State.reset = some (.fault .regAccess) := by decide +kernel

/-- V-BS-1 lines 5, 19. -/
theorem test_wget : answer 0xD0000001 (after 0x50010025 State.reset) = some (.ok 0x20#32) ∧
    answer 0xD0000004 State.reset = some (.fault .indexRange) := by decide +kernel

/-- 60_exceptions.md R205: an illegal word faults with its own code, and the record keeps the first fault. -/
theorem test_illegal : answer 0xE0000000 faulted = some (.fault .illegalCmd) ∧
    (after 0xE0000000 faulted).errCode = 3#4 ∧ (after 0xE0000000 State.reset).errCode = 1#4 ∧
    (after 0xE0000000 State.reset).errCmd = 0xE0000000#32 := by decide +kernel

/-- The codes of 60_exceptions.md R201 as the port shows them (30_encoding.md R80). -/
theorem test_fault_codes :
    [Cause.illegalCmd, .regAccess, .indexRange, .windowFull, .windowShort, .unwritten, .operandRange].map
      (fun c => rspData (.fault c)) = [1#32, 2#32, 3#32, 4#32, 5#32, 6#32, 7#32] := by decide

/-- The derived parameters of the sets S, M, T (95_test_vectors.md, section 0). -/
theorem test_parameters :
    [Config.small, Config.medium, Config.tone].map
      (fun p => (windowSize p, wordCount p, halfWordCount p, halfWindow p, cmpBits p)) =
      [(128, 4, 1, 64, 32), (256, 8, 3, 128, 96), (2048, 64, 31, 1024, 992)] := by decide +kernel

/-! ### Witnesses: every hypothesis of every statement is met -/

theorem inv_reset : Inv State.reset :=
  ⟨by decide +kernel, by decide +kernel, by decide +kernel, by decide +kernel, by decide +kernel, by decide +kernel,
    by decide +kernel⟩

theorem inv_period8 : Inv period8 :=
  ⟨by decide +kernel, by decide +kernel, by decide +kernel, by decide +kernel, by decide +kernel, by decide +kernel,
    by decide +kernel⟩

theorem inv_threeTaken : Inv threeTaken :=
  ⟨by decide +kernel, by decide +kernel, by decide +kernel, by decide +kernel, by decide +kernel, by decide +kernel,
    by decide +kernel⟩

theorem inv_faulted : Inv faulted :=
  ⟨by decide +kernel, by decide +kernel, by decide +kernel, by decide +kernel, by decide +kernel, by decide +kernel,
    by decide +kernel⟩

/-- The pieces of the invariant for a concrete state, so that each witness checks one boolean. -/
def invB (s : State) : Bool :=
  decide (paramsOk s.cfg) && decide (MemoryInv s) && decide (SamplesInv s) && decide (TableInv s) &&
    decide (HandOverInv s) && decide (ResultInv s) && decide (RecordInv s)

theorem inv_of_invB {s : State} (h : invB s = true) : Inv s := by
  simp only [invB, Bool.and_eq_true, decide_eq_true_eq] at h
  exact ⟨h.1.1.1.1.1.1, h.1.1.1.1.1.2, h.1.1.1.1.2, h.1.1.1.2, h.1.1.2, h.1.2, h.2⟩

theorem inv_windowB_20 : Inv (holding windowB 20) := inv_of_invB (by decide +kernel)

theorem inv_tabled_200_24 : Inv (tabled 200 24) := inv_of_invB (by decide +kernel)

/-- `DecodeOfEncode`, at the largest index. -/
theorem witness_DecodeOfEncode : wellFormed (.bset 65535 true) = true ∧ wellFormed (.wget 65535) = true := by decide

theorem witness_EncodeOfDecode : decode 0xC6FFFFFF#32 = .ok (.ldr .corrLag 0xFFFFFF#24) := by decide

/-- `WordSelectsCommandOfItsRow`: a word that selects a row, and one that matches none. -/
theorem witness_WordSelectsCommandOfItsRow : (0x5001007F#32 &&& rowBset.mask = rowBset.pattern ∧ rowBset ∈ opcodeTable) ∧
    ∀ r ∈ opcodeTable, 0x50020000#32 &&& r.mask ≠ r.pattern := by decide

theorem witness_IllegalWordsFault :
    (present (.cmd 0xF0000000#32) State.reset).pending = .cmd 0xF0000000#32 :: [] ∧
    decode 0xF0000000#32 = .error .reservedOpcode := by decide +kernel

theorem witness_StepRunsDecodedCommand :
    (present (.cmd 0x5001007F#32) State.reset).pending = .cmd 0x5001007F#32 :: [] ∧
    decode 0x5001007F#32 = .ok (.bset 127 true) := by decide +kernel

theorem witness_StepTakesOneEvent :
    ∃ t, step { State.reset with pending := [.cmd 0x30000001#32, .rst] } = .next t ∧ t.wrIdx = 1 :=
  ⟨_, exists_next _ (by decide +kernel), by decide +kernel⟩

theorem witness_IdleWithoutEvents : State.reset.pending = [] := rfl

theorem witness_ResetGivesResetState : (present .rst (tabled 32 8)).pending = .rst :: [] := by decide +kernel

/-- `ResetMeetsInvariant`, at the smallest and the largest sets of 00_scope.md R7. -/
theorem witness_ResetMeetsInvariant : paramsOk { sampleRate := 16, minPeriod := 1, maxPeriod := 33 } ∧
    paramsOk { sampleRate := 2 ^ 20 - 1, minPeriod := 32767, maxPeriod := 32768 } := by decide +kernel

theorem witness_StepKeepsInvariant : Inv (tabled 200 24) ∧ ∃ t, step ((tabled 200 24).withFetchWord 32 0x80000000) = .next t ∧
    Inv ((tabled 200 24).withFetchWord 32 0x80000000) :=
  ⟨inv_tabled_200_24, _, exists_next _ (by decide +kernel), inv_of_invB (by decide +kernel)⟩

theorem witness_InvariantStatesNeverStop : Inv (holding windowB 20) := inv_windowB_20

/-- `BuildChecksParameters`: an admitted set, and sets one past the bounds. -/
theorem witness_BuildChecksParameters : paramsOk Config.small ∧
    ¬ paramsOk { sampleRate := 8000, minPeriod := 4, maxPeriod := 32 } ∧
    ¬ paramsOk { sampleRate := 8000, minPeriod := 64, maxPeriod := 64 } ∧
    ¬ paramsOk { sampleRate := 2 ^ 20, minPeriod := 4, maxPeriod := 64 } := by decide +kernel

/-- `FaultIsLowestCodeMet`: a command that meets nothing, and the example of 60_exceptions.md R206. -/
theorem witness_FaultIsLowestCodeMet : Inv State.reset ∧
    ([Cause.illegalCmd, .regAccess, .indexRange, .windowFull, .windowShort, .unwritten, .operandRange].all
      (fun c => !meets (.bget 127) State.reset c) = true) ∧
    meets (.tget 64) State.reset .indexRange = true ∧ meets (.tget 64) State.reset .unwritten = true ∧
    answer 0x70000040 State.reset = some (.fault .indexRange) :=
  ⟨inv_reset, by decide +kernel⟩

theorem witness_RecordKeepsFirstFault : faulted.errCode ≠ 0#4 ∧
    ∃ t, step (faulted.withFetchWord 32 0xE0000000) = .next t ∧
      (faulted.withFetchWord 32 0xE0000000).pending.head? ≠ some .rst :=
  ⟨by decide, _, exists_next _ (by decide +kernel), by decide +kernel⟩

theorem witness_RecordHasNoEffect : ∃ t, exec (.bget 200) State.reset = .next t ∧ Instr.bget 200 ≠ .rdr .status ∧
    Instr.bget 200 ≠ .rdr .err ∧ Instr.bget 200 ≠ .rdr .errCmd :=
  ⟨_, exists_next _ (by decide +kernel), by decide⟩

/-- `ZcMovesLatch`: each clause at the ends of its range. -/
theorem witness_ZcMovesLatch : (BitVec.ofInt 16 (-3277)).toInt ≤ -3277 ∧ (BitVec.ofInt 16 (-32768)).toInt ≤ -3277 ∧
    1 ≤ (1#16).toInt ∧ 1 ≤ (0x7FFF#16).toInt ∧
    (-3276 ≤ (BitVec.ofInt 16 (-3276)).toInt ∧ (BitVec.ofInt 16 (-3276)).toInt ≤ 0) ∧
    (-3276 ≤ (0#16).toInt ∧ (0#16).toInt ≤ 0) := by decide

/-- `DetectorHasHysteresis`: a list of samples for each clause. -/
theorem witness_DetectorHasHysteresis : threeTaken.latched = true ∧ State.reset.latched = false ∧
    (∀ x ∈ [BitVec.ofInt 16 (-3276), 0#16, 5#16], -3276 ≤ x.toInt) ∧
    (∀ x ∈ [BitVec.ofInt 16 (-3277), 0#16, BitVec.ofInt 16 (-1)], x.toInt ≤ 0) ∧
    (∀ x ∈ [BitVec.ofInt 16 (-3276), 0#16], -3276 ≤ x.toInt ∧ x.toInt ≤ 0) := by
  simp only [List.forall_mem_cons, List.not_mem_nil, false_implies, implies_true]
  decide

/-- `BgetReadsBit`, `BsetWritesOneBit`, `BitRoundTrip`: the last index of the window and the first beyond it. -/
theorem witness_BgetReadsBit : paramsOk State.reset.cfg ∧ 127 < windowSize State.reset.cfg ∧
    windowSize State.reset.cfg ≤ 128 := by decide +kernel

theorem witness_BsetWritesOneBit : Inv period8 ∧ 127 < windowSize period8.cfg ∧ windowSize period8.cfg ≤ 128 :=
  ⟨inv_period8, by decide +kernel⟩

theorem witness_BitRoundTrip : Inv period8 ∧ 127 < windowSize period8.cfg ∧ 126 ≠ 127 ∧ 126 < windowSize period8.cfg :=
  ⟨inv_period8, by decide +kernel⟩

theorem witness_WgetReadsWord : 3 < wordCount period8.cfg ∧ wordCount period8.cfg ≤ 4 := by decide +kernel

theorem witness_WordIsSumOfStreamBits : readBits period8 3 = .ok 0x0F0F0F0F#32 ∧ 127 / 32 = 3 := ⟨rfl, rfl⟩

/-- `WordLevelCountIsBitLevelCount`, `CountBounds`: lag 0 and the last lag. -/
theorem witness_WordLevelCountIsBitLevelCount : paramsOk period8.cfg ∧ 0 < halfWindow period8.cfg ∧
    63 < halfWindow period8.cfg := by decide +kernel

theorem witness_CountBounds : paramsOk period8.cfg ∧ 63 < halfWindow period8.cfg ∧ 31 < cmpBits period8.cfg ∧
    31 + 63 = windowSize period8.cfg - 34 := by decide +kernel

/-- `AcorrFillsTable`: the last start lag and the first beyond it. -/
theorem witness_AcorrFillsTable : Inv period8 ∧ 63 < halfWindow period8.cfg ∧ halfWindow period8.cfg ≤ 64 :=
  ⟨inv_period8, by decide +kernel⟩

/-- `LastStreamBitsDoNotCount`: two streams that differ in bit 95, the first that does not count, and agree below. -/
theorem witness_LastStreamBitsDoNotCount :
    let s' := after 0x5001005F period8
    paramsOk period8.cfg ∧ s'.cfg = period8.cfg ∧ streamBit s' 95 ≠ streamBit period8 95 ∧
    (∀ i < windowSize period8.cfg - 33, streamBit period8 i = streamBit s' i) ∧ 63 < halfWindow period8.cfg := by
  decide +kernel

/-- `TgetReadsCount`: the clauses at lags 64, 3, 4 and 63; without a table at 63. -/
theorem witness_TgetReadsCount : Inv (tabled 200 24) ∧ halfWindow (tabled 200 24).cfg ≤ 64 ∧
    (3 < halfWindow (tabled 200 24).cfg ∧ 3 < (tabled 200 24).tblLo) ∧
    ((tabled 200 24).tblValid = true ∧ (tabled 200 24).tblLo ≤ 4 ∧ 63 < halfWindow (tabled 200 24).cfg) ∧
    State.reset.tblValid = false :=
  ⟨inv_tabled_200_24, by decide +kernel⟩

/-- `EchoLagsStayInRange`: V-HC-5 at its largest divisor and its largest `k`, and a table that differs at lag 4, the last
below the lags read. -/
theorem witness_EchoLagsStayInRange : Inv (tabled 200 24) ∧ ((tabled 200 24).vMaxc = true ∧ (tabled 200 24).vBlag = true ∧
    (tabled 200 24).tblValid = true ∧ (tabled 200 24).tblLo ≤ (tabled 200 24).cfg.minPeriod ∧
    (tabled 200 24).bestLag.toNat < halfWindow (tabled 200 24).cfg ∧
    5 + 1 ≤ (tabled 200 24).bestLag.toNat / (tabled 200 24).cfg.minPeriod ∧ 4 ∈ echoOffsets 5) ∧
    paramsOk (tabled 200 24).cfg ∧ (otherBelow (tabled 200 24)).cfg = (tabled 200 24).cfg ∧
    readTable (otherBelow (tabled 200 24)) 4 = .ok 1#16 ∧ readTable (tabled 200 24) 4 = .ok 32#16 ∧
    ∀ p < 25, (tabled 200 24).cfg.minPeriod + 1 ≤ p →
      readTable (otherBelow (tabled 200 24)) p = readTable (tabled 200 24) p :=
  ⟨inv_tabled_200_24, by decide +kernel, by decide +kernel, rfl, by decide +kernel, by decide +kernel,
    by decide +kernel⟩

/-- `HcorrTakesLargestPassingDivisor`: V-HC-5, where the largest divisor passes, and a lag below twice the minimum period,
where there is no divisor. -/
theorem witness_HcorrTakesLargestPassingDivisor : Inv (tabled 200 24) ∧ (tabled 200 24).vMaxc = true ∧
    (tabled 200 24).vBlag = true ∧ (tabled 200 24).tblValid = true ∧
    (tabled 200 24).tblLo ≤ (tabled 200 24).cfg.minPeriod ∧
    (tabled 200 24).bestLag.toNat < halfWindow (tabled 200 24).cfg ∧ EchoesPass (tabled 200 24) 5 ∧
    (tabled 200 7).bestLag.toNat / 4 = 1 :=
  ⟨inv_tabled_200_24, by decide +kernel⟩

theorem witness_HcorrTakesLargestPassingDivisor_lastLag : Inv (tabled 32 63) ∧
    (tabled 32 63).bestLag.toNat < halfWindow (tabled 32 63).cfg ∧ ¬ EchoesPass (tabled 32 63) 3 ∧
    EchoesPass (tabled 32 63) 2 :=
  ⟨inv_of_invB (by decide +kernel), by decide +kernel⟩

theorem witness_CorrectedLagBounds : Inv (tabled 200 24) ∧ ∃ t, exec .hcorr (tabled 200 24) = .next t ∧
    t.rsp = some (.ok 4#32) ∧ (tabled 200 24).cfg.minPeriod ≤ (tabled 200 24).bestLag.toNat ∧
    (tabled 200 7).bestLag.toNat < 2 * (tabled 200 7).cfg.minPeriod :=
  ⟨inv_tabled_200_24, _, exists_next _ (by decide +kernel), by decide +kernel⟩

/-- `HcorrPreconditions`: no mark at all, a table that starts one too late, and a lag one too large. -/
theorem witness_HcorrPreconditions : State.reset.vMaxc = false ∧
    (after 0x60000005 period8).cfg.minPeriod < (after 0x60000005 period8).tblLo ∧
    ((tabled 32 64).vMaxc = true ∧ (tabled 32 64).vBlag = true ∧ (tabled 32 64).tblValid = true ∧
      (tabled 32 64).tblLo ≤ (tabled 32 64).cfg.minPeriod ∧
      halfWindow (tabled 32 64).cfg ≤ (tabled 32 64).bestLag.toNat) := by decide +kernel

theorem witness_NextEdgeIsFirstEdge : Inv (holding windowB 20) ∧
    (holding windowB 20).wrIdx = windowSize (holding windowB 20).cfg ∧ FirstEdge (holding windowB 20) 23 23 ∧
    NoEdge (holding windowB 20) 24 ∧ IsEdge (holding windowB 20) 3 :=
  ⟨inv_windowB_20, by decide +kernel⟩

/-- `RefineUndetermined`: the four cases of 43_refiner.md R164, V-RF-5a, V-RF-3, V-RF-4e, V-RF-4b. -/
theorem witness_RefineUndetermined :
    (Inv (holding windowB 128) ∧ (holding windowB 128).corrLag ≠ 0#32 ∧
      windowSize (holding windowB 128).cfg ≤ (holding windowB 128).corrLag.toNat) ∧
    (Inv (holding (List.replicate 128 5) 20) ∧ NoEdge (holding (List.replicate 128 5) 20) 0) ∧
    (Inv (holding windowB 25) ∧ NoEdge (holding windowB 25) ((holding windowB 25).corrLag.toNat - 1)) ∧
    (Inv (holding windowB 4) ∧ (holding windowB 4).wrIdx = windowSize (holding windowB 4).cfg ∧
      FirstEdge (holding windowB 4) 0 3 ∧ FirstEdge (holding windowB 4) ((holding windowB 4).corrLag.toNat - 1) 3) :=
  ⟨⟨inv_of_invB (by decide +kernel), by decide +kernel⟩, ⟨inv_of_invB (by decide +kernel), by decide +kernel⟩,
    ⟨inv_of_invB (by decide +kernel), by decide +kernel⟩, inv_of_invB (by decide +kernel), by decide +kernel⟩

/-- `RefineFrequency`: V-RF-1. -/
theorem witness_RefineFrequency : Inv (holding windowB 20) ∧
    (holding windowB 20).wrIdx = windowSize (holding windowB 20).cfg ∧ (holding windowB 20).vClag = true ∧
    (holding windowB 20).corrLag ≠ 0#32 ∧ (holding windowB 20).corrLag.toNat < windowSize (holding windowB 20).cfg ∧
    FirstEdge (holding windowB 20) 0 3 ∧
    FirstEdge (holding windowB 20) ((holding windowB 20).corrLag.toNat - 1) 23 ∧ 3 ≠ 23 :=
  ⟨inv_windowB_20, by decide +kernel⟩

/-- `PeriodBounds`: two edges at lag 24, one edge at lag 4, and the smallest and largest lag. -/
theorem witness_PeriodBounds : Inv (holding windowB 20) ∧
    (FirstEdge (holding windowB 20) 0 3 ∧ FirstEdge (holding windowB 20) (24 - 1) 23) ∧
    FirstEdge (holding windowB 20) (4 - 1) 3 ∧ FirstEdge (holding windowB 20) (1 - 1) 3 ∧
    24 < windowSize (holding windowB 20).cfg :=
  ⟨inv_windowB_20, ⟨by decide +kernel, by decide +kernel⟩, by decide +kernel, by decide +kernel, by decide +kernel⟩

theorem witness_ZeroResponseMeansUndetermined : Inv (holding windowB 20) ∧
    ∃ t, exec .refine (holding windowB 20) = .next t ∧ t.rsp = some (.ok 0x0018B0FC#32) ∧ t.undet = false :=
  ⟨inv_windowB_20, _, exists_next _ (by decide +kernel), by decide +kernel⟩

/-- `RefinePreconditions`: each of the three. -/
theorem witness_RefinePreconditions : threeTaken.wrIdx ≠ windowSize threeTaken.cfg ∧
    ((holding windowB 0).wrIdx = windowSize (holding windowB 0).cfg ∧
      { holding windowB 0 with vClag := false }.vClag = false) ∧
    ((holding windowB 0).vClag = true ∧ (holding windowB 0).corrLag = 0#32) := by decide +kernel

theorem witness_WrstForgetsWindow : period8.cfg = threeTaken.cfg ∧ period8.errCode = threeTaken.errCode ∧
    period8.errCmd = threeTaken.errCmd ∧ period8.pending = threeTaken.pending ∧ period8 ≠ threeTaken ∧
    ∃ t, exec .wrst threeTaken = .next t := ⟨rfl, rfl, rfl, rfl, by decide, _, rfl⟩

/-- `PushTakesSample`, `PushIsZcThenBset`: the last free place (127 samples taken), and a full window. -/
theorem witness_PushTakesSample : Inv (holding (windowB.take 127) 20) ∧
    (holding (windowB.take 127) 20).wrIdx < windowSize (holding (windowB.take 127) 20).cfg ∧
    (holding (windowB.take 127) 20).wrIdx = 127 ∧
    Inv (holding windowB 20) ∧ (holding windowB 20).wrIdx = windowSize (holding windowB 20).cfg ∧
    false = (if (BitVec.ofInt 16 (-3277)).toInt ≤ -3277 then false
      else if 1 ≤ (BitVec.ofInt 16 (-3277)).toInt then true else true) :=
  ⟨inv_of_invB (by decide +kernel), by decide +kernel, by decide +kernel, inv_windowB_20, by decide +kernel, rfl⟩

theorem witness_PushIsZcThenBset : Inv threeTaken ∧ threeTaken.wrIdx < windowSize threeTaken.cfg :=
  ⟨inv_threeTaken, by decide +kernel⟩

theorem witness_WriteIndexMoves : ∃ t, exec (.push 1#16) threeTaken = .next t ∧ t.wrIdx = 4 :=
  ⟨_, exists_next _ (by decide +kernel), by decide +kernel⟩

/-- `RunIsAcorrHcorrRefine`, `RunCompletes`: a full window, and a window one sample short. -/
theorem witness_RunIsAcorrHcorrRefine : Inv (holding windowB 20) ∧
    (holding windowB 20).wrIdx = windowSize (holding windowB 20).cfg := ⟨inv_windowB_20, by decide +kernel⟩

theorem witness_RunCompletes : Inv (holding windowB 20) ∧
    (holding windowB 20).wrIdx = windowSize (holding windowB 20).cfg ∧
    (holding (windowB.take 127) 20).wrIdx ≠ windowSize (holding (windowB.take 127) 20).cfg :=
  ⟨inv_windowB_20, by decide +kernel⟩

theorem witness_RunIsRepeatable : Inv (holding windowB 20) ∧
    (holding windowB 20).wrIdx = windowSize (holding windowB 20).cfg ∧
    ∃ t, exec .run (holding windowB 20) = .next t :=
  ⟨inv_windowB_20, by decide +kernel, _, exists_next _ (by decide +kernel)⟩

theorem witness_EstimateDependsOnWindowOnly : Inv faulted ∧ Inv threeTaken ∧ threeTaken.cfg = faulted.cfg ∧
    (List.replicate 128 1#16).length = windowSize faulted.cfg :=
  ⟨inv_faulted, inv_threeTaken, by decide +kernel⟩

/-- `RdrReadsRegister`: each mark set and not set. -/
theorem witness_RdrReadsRegister : ((tabled 32 8).vMaxc = true ∧ (tabled 32 8).vBlag = true ∧ (tabled 32 8).tblValid = true) ∧
    (holding windowB 20).vClag = true ∧ (after 0x90000000 (holding windowB 20)).resValid = true ∧
    (State.reset.vMaxc = false ∧ State.reset.vBlag = false ∧ State.reset.vClag = false ∧
      State.reset.tblValid = false ∧ State.reset.resValid = false) := by decide +kernel

/-- `LdrLoadsHandOverRegister`: a register that can be loaded and one that cannot. -/
theorem witness_LdrLoadsHandOverRegister : (Reg.corrLag = .maxCount ∨ Reg.corrLag = .bestLag ∨ Reg.corrLag = .corrLag) ∧
    (Reg.reserved11 ≠ .maxCount ∧ Reg.reserved11 ≠ .bestLag ∧ Reg.reserved11 ≠ .corrLag) := by decide

/-- `CommandsReadBlockOnly`: two states that differ in the events to come and in the earlier response. -/
theorem witness_CommandsReadBlockOnly :
    (present .rst (respondedTo threeTaken)).toBlock = threeTaken.toBlock ∧
    (present .rst (respondedTo threeTaken)).cfg = threeTaken.cfg ∧ present .rst (respondedTo threeTaken) ≠ threeTaken ∧
    ∃ t, exec (.push 1#16) threeTaken = .next t :=
  ⟨rfl, rfl, by decide, _, exists_next _ (by decide +kernel)⟩

theorem witness_ReadsHaveNoSideEffect : ∃ t, exec (.tget 5) (tabled 32 8) = .next t ∧ t.rsp = some (.ok 24#32) :=
  ⟨_, exists_next _ (by decide +kernel), by decide +kernel⟩

/-- `FlagsWrittenAsTabled`: a step that sets `RES_VALID` and `UNDET`, one that sets `V_BLAG`, one that clears both. -/
theorem witness_FlagsWrittenAsTabled :
    (∃ t, exec .refine (holding windowB 4) = .next t ∧ t.resValid = true ∧ t.undet = true) ∧
    (∃ t, exec (.ldr .bestLag 9#24) State.reset = .next t ∧ t.vBlag = true) ∧
    ∃ t, exec .wrst (tabled 32 8) = .next t ∧ t.vBlag = false ∧ t.tblValid = false :=
  ⟨⟨_, exists_next _ (by decide +kernel), by decide +kernel⟩, ⟨_, rfl, rfl⟩, _, rfl, rfl, rfl⟩

theorem witness_MemoriesWrittenAsTabled : ∃ t, exec (.push 0x8000#16) threeTaken = .next t ∧ t.mem.bits ≠ threeTaken.mem.bits ∧
    t.mem.sig ≠ threeTaken.mem.sig :=
  ⟨_, exists_next _ (by decide +kernel), by decide +kernel⟩

theorem witness_ConfigurationIsConstant : ∃ t, step (present .rst threeTaken) = .next t := ⟨_, rfl⟩

theorem witness_FirstCommandAfterReset : paramsOk Config.small ∧ 127 < windowSize Config.small ∧
    3 < wordCount Config.small ∧ 63 < halfWindow Config.small := by decide +kernel

end Sys2Proof.Tests
end

namespace Sys2Proof.Machine

/- One theorem at a time, as in the tests: their kernel evaluations would otherwise hold a thread each. -/
set_option Elab.async false

/-! ### What one command can do

`exec_next` says once what a command that ends can have done: it took a fault, or it completed as `Completes` says. The
invariant, the table of the flags and the constancy of the parameters are read off these cases. -/

/-! #### The shared operations: which elements they write -/

/-- A bit write replaces one word of `BITS` (20_memory.md R67). -/
theorem writeBit_writes {s t : State} {i : Nat} {v : Bool} (h : writeBit s i v = .ok t) :
    ∃ w, wordOfBit i < wordCount s.cfg ∧ t = setBits (putOrDrop s.mem.bits (wordOfBit i) w) s := by
  obtain ⟨w, -, h⟩ := bind_eq_ok.mp h
  exact ⟨_, writeBits_eq_ok.mp h⟩

/-- `PUSH` writes the latch, one word of `BITS`, and the sample with its count (44_pipeline.md R174). -/
theorem takeSample_writes {s t : State} {smp : Sample} (h : takeSample smp s = .ok t) :
    ∃ w, wordOfBit s.wrIdx < wordCount s.cfg ∧
      appendSig (setBits (putOrDrop s.mem.bits (wordOfBit s.wrIdx) w) (setLatched (zcNext s.latched smp) s)) smp =
        .ok t := by
  obtain ⟨u, hu, h⟩ := bind_eq_ok.mp h
  obtain ⟨w, hw, rfl⟩ := writeBit_writes hu
  exact ⟨w, hw, h⟩

/-- `autocorrelate` writes the table and the two extremes with their marks (41_bitstream.md R118). -/
theorem autocorrelate_writes {s t : State} {start maxCount lag : Nat}
    (h : autocorrelate start s = .ok (t, maxCount, lag)) :
    ∃ m, t = setBestLag (BitVec.ofNat 32 lag) (setMaxCount (BitVec.ofNat 32 maxCount) (setTable m start s)) := by
  obtain ⟨counts, -, h⟩ := bind_eq_ok.mp h
  split at h
  · cases h
  · cases h; exact ⟨_, rfl⟩

theorem applyCorrection_eq_ok {s t : State} {c : Nat} :
    applyCorrection s = .ok (t, c) ↔
      correct s s.maxCount.toNat s.bestLag.toNat = .ok c ∧ t = setCorrLag (BitVec.ofNat 32 c) s := by
  unfold applyCorrection
  cases correct s s.maxCount.toNat s.bestLag.toNat <;> simp [and_comm, eq_comm]
  rintro rfl; rfl

theorem applyRefinement_eq_ok {s t : State} :
    applyRefinement s = .ok t ↔ ∃ r, refineAt s s.corrLag.toNat = .ok r ∧ t = writeResult r s := by
  rw [applyRefinement, bind_eq_ok]
  simp [eq_comm]

/-- `applyRefinement` writes the five elements of the result (43_refiner.md R158). -/
theorem applyRefinement_writes {s t : State} (h : applyRefinement s = .ok t) :
    ∃ v u e0 e1 f, t = respond (.ok v) (setResult u e0 e1 f s) := by
  obtain ⟨r, -, rfl⟩ := applyRefinement_eq_ok.mp h
  cases r with
  | undetermined => exact ⟨_, _, _, _, _, rfl⟩
  | frequency e0 e1 q => exact ⟨_, _, _, _, _, rfl⟩

theorem winFull_iff (s : State) : winFull s = true ↔ s.wrIdx = windowSize s.cfg := beq_iff_eq

/-! #### How a command ends normally -/

/-- `Completes s i t`: command `i` meets no fault condition in `s` and its meaning leads to `t`, the response
included. -/
inductive Completes (s : State) : Instr → State → Prop
  | nop : Completes s .nop (respond (.ok 0#32) s)
  | wrst : Completes s .wrst (respond (.ok 0#32) (windowReset s))
  | zc (smp : Sample) :
    Completes s (.zc smp) (respond (.ok (bitWord (zcNext s.latched smp))) (setLatched (zcNext s.latched smp) s))
  | push (smp : Sample) (u : State) (hfull : s.wrIdx ≠ windowSize s.cfg) (hu : takeSample smp s = .ok u) :
    Completes s (.push smp) (respond (.ok (bitWord (zcNext s.latched smp))) u)
  | bget (idx : Nat) (b : Bool) (hb : readBit s idx = .ok b) :
    Completes s (.bget idx) (respond (.ok (bitWord b)) s)
  | bset (idx : Nat) (v : Bool) (u : State) (hu : writeBit s idx v = .ok u) :
    Completes s (.bset idx v) (respond (.ok 0#32) u)
  | acorr (idx : Nat) (u : State) (maxCount lag : Nat) (hidx : idx < halfWindow s.cfg)
    (hu : autocorrelate idx s = .ok (u, maxCount, lag)) :
    Completes s (.acorr idx) (respond (.ok (extremesWord maxCount lag)) u)
  | tget (idx : Nat) (c : Count) (hc : readTable s idx = .ok c) :
    Completes s (.tget idx) (respond (.ok (countWord c)) s)
  | hcorr (u : State) (c : Nat) (hready : correctionReady s = true) (hlag : s.bestLag.toNat < halfWindow s.cfg)
    (hu : applyCorrection s = .ok (u, c)) : Completes s .hcorr (respond (.ok (BitVec.ofNat 32 c)) u)
  | refine (t : State) (hfull : s.wrIdx = windowSize s.cfg) (hmark : s.vClag = true) (hlag : s.corrLag ≠ 0#32)
    (ht : applyRefinement s = .ok t) : Completes s .refine t
  | run (a b t : State) (maxCount lag c : Nat) (hfull : s.wrIdx = windowSize s.cfg)
    (ha : autocorrelate s.cfg.minPeriod s = .ok (a, maxCount, lag)) (hb : applyCorrection a = .ok (b, c))
    (ht : applyRefinement b = .ok t) : Completes s .run t
  | rdr (reg : Reg) (hmark : regMark s reg = true) : Completes s (.rdr reg) (respond (.ok (regValue s reg)) s)
  | ldr (reg : Reg) (imm : BitVec 24) (hreg : loadable reg = true) :
    Completes s (.ldr reg imm) (respond (.ok 0#32) (loadRegister reg (immWord imm) s))
  | wget (idx : Nat) (w : Word) (hw : readBits s idx = .ok w) : Completes s (.wget idx) (respond (.ok w) s)

/-- A command that ends took a fault or completed: the two ways of 60_exceptions.md R204 and 30_encoding.md R80. -/
abbrev Ends (i : Instr) (s t : State) : Prop := (∃ c, t = raise c (encode i) s) ∨ Completes s i t

theorem ends_of_raised {i : Instr} {s t : State} {c : Cause} (h : raised c (encode i) s = .next t) : Ends i s t :=
  .inl ⟨c, by cases h; rfl⟩

theorem execPush_next {smp : Sample} {s t : State} (h : execPush smp s = .next t) : Ends (.push smp) s t := by
  unfold execPush at h
  split at h
  · exact ends_of_raised h
  · next hfull =>
    obtain ⟨u, hu, h⟩ := bind_eq_ok.mp (finish_eq_next.mp h)
    cases h
    exact .inr (.push smp u (by rwa [winFull_iff] at hfull) hu)

theorem execBget_next {idx : Nat} {s t : State} (h : execBget idx s = .next t) : Ends (.bget idx) s t := by
  unfold execBget at h
  split at h
  · exact ends_of_raised h
  · obtain ⟨b, hb, h⟩ := bind_eq_ok.mp (finish_eq_next.mp h)
    cases h
    exact .inr (.bget idx b hb)

theorem execBset_next {idx : Nat} {v : Bool} {s t : State} (h : execBset idx v s = .next t) :
    Ends (.bset idx v) s t := by
  unfold execBset at h
  split at h
  · exact ends_of_raised h
  · obtain ⟨u, hu, h⟩ := bind_eq_ok.mp (finish_eq_next.mp h)
    cases h
    exact .inr (.bset idx v u hu)

theorem execWget_next {idx : Nat} {s t : State} (h : execWget idx s = .next t) : Ends (.wget idx) s t := by
  unfold execWget at h
  split at h
  · exact ends_of_raised h
  · obtain ⟨w, hw, h⟩ := bind_eq_ok.mp (finish_eq_next.mp h)
    cases h
    exact .inr (.wget idx w hw)

theorem execAcorr_next {idx : Nat} {s t : State} (h : execAcorr idx s = .next t) : Ends (.acorr idx) s t := by
  unfold execAcorr at h
  split at h
  · exact ends_of_raised h
  · next hidx =>
    obtain ⟨⟨u, maxCount, lag⟩, hu, h⟩ := bind_eq_ok.mp (finish_eq_next.mp h)
    cases h
    exact .inr (.acorr idx u maxCount lag (by omega) hu)

theorem execTget_next {idx : Nat} {s t : State} (h : execTget idx s = .next t) : Ends (.tget idx) s t := by
  unfold execTget at h
  split at h
  · exact ends_of_raised h
  · split at h
    · exact ends_of_raised h
    · obtain ⟨c, hc, h⟩ := bind_eq_ok.mp (finish_eq_next.mp h)
      cases h
      exact .inr (.tget idx c hc)

theorem execHcorr_next {s t : State} (h : execHcorr s = .next t) : Ends .hcorr s t := by
  unfold execHcorr at h
  split at h
  · exact ends_of_raised h
  · next hready =>
    split at h
    · exact ends_of_raised h
    · next hlag =>
      obtain ⟨⟨u, c⟩, hu, h⟩ := bind_eq_ok.mp (finish_eq_next.mp h)
      cases h
      exact .inr (.hcorr u c (by simpa using hready) (by omega) hu)

theorem execRefine_next {s t : State} (h : execRefine s = .next t) : Ends .refine s t := by
  unfold execRefine at h
  split at h
  · exact ends_of_raised h
  · next hfull =>
    split at h
    · exact ends_of_raised h
    · next hmark =>
      split at h
      · exact ends_of_raised h
      · next hlag =>
        rw [Bool.not_eq_false, winFull_iff] at hfull
        exact .inr (.refine t hfull (by simpa using hmark) hlag (finish_eq_next.mp h))

theorem execRun_next {s t : State} (h : execRun s = .next t) : Ends .run s t := by
  unfold execRun at h
  split at h
  · exact ends_of_raised h
  · next hfull =>
    rw [Bool.not_eq_false, winFull_iff] at hfull
    obtain ⟨⟨a, maxCount, lag⟩, ha, h⟩ := bind_eq_ok.mp (finish_eq_next.mp h)
    obtain ⟨⟨b, c⟩, hb, h⟩ := bind_eq_ok.mp h
    exact .inr (.run a b t maxCount lag c hfull ha hb h)

theorem execRdr_next {reg : Reg} {s t : State} (h : execRdr reg s = .next t) : Ends (.rdr reg) s t := by
  unfold execRdr at h
  split at h
  · exact ends_of_raised h
  · split at h
    · exact ends_of_raised h
    · next hmark =>
      cases h
      exact .inr (.rdr reg (by simpa using hmark))

theorem execLdr_next {reg : Reg} {imm : BitVec 24} {s t : State} (h : execLdr reg imm s = .next t) :
    Ends (.ldr reg imm) s t := by
  unfold execLdr at h
  split at h
  · exact ends_of_raised h
  · next hreg =>
    cases h
    exact .inr (.ldr reg imm (by simpa using hreg))

/-- Everything a command that ends can have done. -/
theorem exec_next {i : Instr} {s t : State} (h : exec i s = .next t) : Ends i s t := by
  cases i with
  | nop => cases h; exact .inr .nop
  | wrst => cases h; exact .inr .wrst
  | zc smp => cases h; exact .inr (.zc smp)
  | push smp => exact execPush_next h
  | bget idx => exact execBget_next h
  | bset idx v => exact execBset_next h
  | acorr idx => exact execAcorr_next h
  | tget idx => exact execTget_next h
  | hcorr => exact execHcorr_next h
  | refine => exact execRefine_next h
  | run => exact execRun_next h
  | rdr reg => exact execRdr_next h
  | ldr reg imm => exact execLdr_next h
  | wget idx => exact execWget_next h

/-- Everything a step can do: nothing is presented, a reset is, a word that is no command is, or a command is. -/
theorem step_next {s t : State} (h : step s = .next t) :
    t = s ∨ ∃ rest, t = hardReset { s with pending := rest } ∨
      (∃ cw, t = raise .illegalCmd cw { s with pending := rest }) ∨
      ∃ i, exec i { s with pending := rest } = .next t := by
  rcases takeEvent_cases s with ⟨-, he⟩ | ⟨e, rest, -, he⟩
  · simp only [step, he, idle] at h
    cases h
    exact .inl rfl
  · refine .inr ⟨rest, ?_⟩
    cases e with
    | rst =>
      simp only [step, he] at h
      cases h
      exact .inl rfl
    | cmd cw =>
      simp only [step, he] at h
      split at h
      · exact .inr (.inr ⟨_, h⟩)
      · cases h
        exact .inr (.inl ⟨cw, rfl⟩)

/-! ### The edges and the frequency of a refinement -/

/-- What the scan finds on a full window is the first edge from `start` on (43_refiner.md R153). -/
theorem firstEdge_of_nextEdge {s : State} (hs : SamplesInv s) (hfull : s.wrIdx = windowSize s.cfg) {start i : Nat}
    (h : nextEdge s start = .ok (some i)) : FirstEdge s start i := by
  by_cases hin : max start 1 ≤ windowSize s.cfg
  · obtain ⟨r, hr, hsome, -⟩ :=
      scanEdge_of_values hs (windowSize s.cfg - max start 1) (max start 1) (by omega)
    obtain rfl : r = some i := Except.ok.inj (hr.symm.trans h)
    obtain ⟨hge, hlt, hpos, hneg, hfirst⟩ := hsome i rfl
    exact ⟨⟨by omega, by omega, hpos, hneg⟩, hge, fun j hji hj hedge => hfirst j hj hji hedge.2.2⟩
  · have hzero : windowSize s.cfg - max start 1 = 0 := by omega
    simp [nextEdge, hzero, scanEdge] at h

/-- Two consecutive indices are never both edges (43_refiner.md R155). -/
theorem not_isEdge_succ {s : State} {i : Nat} (h : IsEdge s i) : ¬ IsEdge s (i + 1) := by
  obtain ⟨-, -, hpos, -⟩ := h
  rintro ⟨-, -, -, hneg⟩
  simp only [Nat.add_sub_cancel] at hneg
  omega

/-- Any edge but the first of the window stands at least 2 after it (43_refiner.md R160). -/
theorem edges_apart {s : State} {i1 i2 : Nat} (h1 : FirstEdge s 0 i1) (h2 : IsEdge s i2) (hne : i1 ≠ i2) :
    i1 + 2 ≤ i2 := by
  obtain ⟨hedge, -, hfirst⟩ := h1
  have hge : ¬ i2 < i1 := fun hlt => hfirst i2 hlt (by have := h2.1; omega) h2
  have hsucc : i2 ≠ i1 + 1 := fun he => not_isEdge_succ hedge (he ▸ h2)
  omega

theorem periodN_self (s : State) (i : Nat) : periodN s i i = 0 := by
  unfold periodN; ring

theorem periodD_pos {s : State} {i1 i2 : Nat} (h1 : IsEdge s i1) (h2 : IsEdge s i2) : 0 < periodD s i1 i2 := by
  obtain ⟨-, -, hpos1, hneg1⟩ := h1
  obtain ⟨-, -, hpos2, hneg2⟩ := h2
  exact mul_pos (by omega) (by omega)

/-- The period exceeds 1: two edges 2 apart, each moved by less than a sample (43_refiner.md R160). -/
theorem periodD_lt_periodN {s : State} {i1 i2 : Nat} (h1 : IsEdge s i1) (h2 : IsEdge s i2) (hap : i1 + 2 ≤ i2) :
    periodD s i1 i2 < periodN s i1 i2 := by
  obtain ⟨-, -, hpos1, hneg1⟩ := h1
  obtain ⟨-, -, hpos2, hneg2⟩ := h2
  unfold periodD periodN
  set a := sampleAt s i1
  set a0 := sampleAt s (i1 - 1)
  set b := sampleAt s i2
  set b0 := sampleAt s (i2 - 1)
  have hd : (2 : Int) ≤ (i2 : Int) - (i1 : Int) := by omega
  have hab : 0 < (a - a0) * (b - b0) := mul_pos (by omega) (by omega)
  have hlead := mul_le_mul_of_nonneg_right hd hab.le
  have hb0 : 0 ≤ (-b0) * (a - a0) := mul_nonneg (by omega) (by omega)
  have ha0 : 0 < a * (b - b0) := mul_pos (by omega) (by omega)
  linarith [hlead, hb0, ha0]

/-- The period is below `WINDOW_SIZE - 1` (43_refiner.md R160). -/
theorem periodN_lt {s : State} {i1 i2 : Nat} (h1 : IsEdge s i1) (h2 : IsEdge s i2) :
    periodN s i1 i2 < ((windowSize s.cfg : Int) - 1) * periodD s i1 i2 := by
  obtain ⟨hge1, -, hpos1, hneg1⟩ := h1
  obtain ⟨-, hlt2, hpos2, hneg2⟩ := h2
  unfold periodD periodN
  set a := sampleAt s i1
  set a0 := sampleAt s (i1 - 1)
  set b := sampleAt s i2
  set b0 := sampleAt s (i2 - 1)
  have hd : (i2 : Int) - (i1 : Int) + 1 ≤ (windowSize s.cfg : Int) - 1 := by omega
  have hab : 0 < (a - a0) * (b - b0) := mul_pos (by omega) (by omega)
  have hlead := mul_le_mul_of_nonneg_right hd hab.le
  have hb : 0 < b * (a - a0) := mul_pos (by omega) (by omega)
  have ha0 : 0 ≤ (-a0) * (b - b0) := mul_nonneg (by omega) (by omega)
  linarith [hlead, hb, ha0]

/-- The quotient of 43_refiner.md R158 is in `[1, scale)` while the period is above 1 and at most `scale`. -/
theorem quotient_bounds {scale : Nat} {d n : Int} (hd : 0 < d) (hdn : d < n) (hn : n ≤ scale * d) :
    1 ≤ scale * d.toNat / n.toNat ∧ scale * d.toNat / n.toNat < scale := by
  lift d to Nat using hd.le
  lift n to Nat using (hd.trans hdn).le
  norm_cast at hd hdn hn
  simp only [Int.toNat_natCast]
  have hscale : 0 < scale := Nat.pos_of_ne_zero fun h0 => by simp [h0] at hn; omega
  exact ⟨(Nat.one_le_div_iff (by omega)).mpr hn,
    (Nat.div_lt_iff_lt_mul (by omega)).mpr (Nat.mul_lt_mul_of_pos_left hdn hscale)⟩

/-- A determined result lies between two edges at least 2 apart, and its frequency between 1/4096 Hz and the sample
rate (43_refiner.md R160, R161). -/
theorem refineAt_frequency_bounds {s : State} (hp : paramsOk s.cfg) (hs : SamplesInv s)
    (hfull : s.wrIdx = windowSize s.cfg) {lag e0 e1 q : Nat} (h : refineAt s lag = .ok (.frequency e0 e1 q)) :
    1 ≤ e0 ∧ e0 + 2 ≤ e1 ∧ e1 < windowSize s.cfg ∧ 1 ≤ q ∧ q < s.cfg.sampleRate * 4096 := by
  rcases refineAt_cases h with ⟨-, hr⟩ | ⟨-, ⟨-, hr⟩ | ⟨i1, hi1, ⟨-, hr⟩ | ⟨i2, hi2, hr⟩⟩⟩
  · cases hr
  · cases hr
  · cases hr
  have hfirst1 := firstEdge_of_nextEdge hs hfull hi1
  have hedge1 := hfirst1.1
  have hedge2 := (firstEdge_of_nextEdge hs hfull hi2).1
  rw [refineEdges_of_values hs (hfull ▸ hedge1.2.1) (hfull ▸ hedge2.2.1)] at hr
  split at hr
  · cases hr
  · next hN =>
    cases hr
    have hne : e0 ≠ e1 := fun he => hN (he ▸ (periodN_self s e0).le)
    have hap := edges_apart hfirst1 hedge2 hne
    have hD := periodD_pos hedge1 hedge2
    have hscale : ((windowSize s.cfg : Int) - 1) * periodD s e0 e1 ≤
        ((s.cfg.sampleRate * 4096 : Nat) : Int) * periodD s e0 e1 := by
      have hw := (windowSize_bounds hp).2
      have hrate : 16 ≤ s.cfg.sampleRate := hp.1
      exact mul_le_mul_of_nonneg_right (by omega) hD.le
    have hq := quotient_bounds hD (periodD_lt_periodN hedge1 hedge2 hap)
      ((periodN_lt hedge1 hedge2).le.trans hscale)
    exact ⟨hedge1.1, hap, hedge2.2.1, hq⟩

/-! ### The corrected lag -/

theorem searchDivisor_le {s : State} {maxCount rawLag n c : Nat} (h : searchDivisor s maxCount rawLag n = .ok c) :
    c ≤ rawLag := by
  induction n with
  | zero => cases h; exact le_rfl
  | succ n ih =>
    obtain ⟨pass, -, h⟩ := bind_eq_ok.mp h
    cases pass with
    | true => cases h; exact Nat.div_le_self _ _
    | false => exact ih h

/-- A corrected lag never exceeds the raw one (42_harmonic.md R144). -/
theorem correct_le {s : State} {maxCount rawLag c : Nat} (h : correct s maxCount rawLag = .ok c) : c ≤ rawLag :=
  searchDivisor_le h

/-! ### Every update keeps the invariant

One lemma per operation of Machine/Ops.lean. Each writes out the parts of the invariant that speak of an element the
operation writes; the other parts are those of the state before. -/

/-- The invariant speaks of the block and the parameters only, not of the port. -/
theorem inv_of_same_block {s t : State} (hi : Inv s) (hb : t.toBlock = s.toBlock) (hc : t.cfg = s.cfg) : Inv t := by
  cases s; cases t
  cases hb; cases hc
  exact ⟨hi.params, hi.memory, hi.samples, hi.table, hi.handOver, hi.result, hi.record⟩

theorem inv_respond {s : State} (hi : Inv s) (r : Response) : Inv (respond r s) := inv_of_same_block hi rfl rfl

theorem inv_setPending {s : State} (hi : Inv s) (rest : List HostEvent) : Inv { s with pending := rest } :=
  inv_of_same_block hi rfl rfl

theorem code_bounds (c : Cause) : code c ≠ 0#4 ∧ (code c).toNat ≤ 7 := by cases c <;> decide

theorem inv_record {s : State} (hi : Inv s) (c : Cause) (cw : Word) : Inv (record c cw s) := by
  obtain ⟨hne, hle⟩ := code_bounds c
  unfold record
  split
  · exact ⟨hi.params, hi.memory, hi.samples, hi.table, hi.handOver, hi.result, hle, fun h => absurd h hne⟩
  · exact hi

theorem inv_raise {s : State} (hi : Inv s) (c : Cause) (cw : Word) : Inv (raise c cw s) :=
  inv_respond (inv_record hi c cw) _

/-- An empty window meets the invariant, whatever legal record stands beside it. -/
theorem inv_of_empty_window {s : State} (hp : paramsOk s.cfg) (hr : RecordInv s)
    (hb : s.toBlock = { Block.reset with errCode := s.errCode, errCmd := s.errCmd }) : Inv s := by
  cases s with
  | mk b cfg pending rsp =>
    simp only at hb
    rw [hb]
    exact {
      params := hp
      memory := by simp [MemoryInv, Memory.wf]
      samples := by simp [SamplesInv]
      table := by simp [TableInv]
      handOver := by simp [HandOverInv]
      result := by simp [ResultInv]
      record := hr }

theorem inv_windowReset {s : State} (hi : Inv s) : Inv (windowReset s) :=
  inv_of_empty_window hi.params hi.record (windowReset_toBlock s)

theorem inv_hardReset {s : State} (hp : paramsOk s.cfg) : Inv (hardReset s) :=
  inv_of_empty_window hp (by simp [RecordInv]) rfl

theorem inv_setLatched {s : State} (hi : Inv s) (b : Bool) : Inv (setLatched b s) :=
  ⟨hi.params, hi.memory, hi.samples, hi.table, hi.handOver, hi.result, hi.record⟩

theorem inv_setBits {s : State} (hi : Inv s) {a : Nat} (ha : a < wordCount s.cfg) (w : Word) :
    Inv (setBits (putOrDrop s.mem.bits a w) s) :=
  ⟨hi.params, setBits_keeps_memory hi.memory ha w, hi.samples, hi.table, hi.handOver, hi.result, hi.record⟩

/-- A window that is not full has no result (43_refiner.md R162), so taking a sample outdates none. -/
theorem inv_appendSig {s t : State} (hi : Inv s) {v : Sample} (h : appendSig s v = .ok t) : Inv t := by
  have hwf := appendSig_keeps_wf hi.memory.1 h
  have hsamples := (appendSig_keeps_samples hi.samples h).1
  obtain ⟨hlt, rfl⟩ := appendSig_eq_ok.mp h
  obtain ⟨hundet, hzero, hcomes, hdet⟩ := hi.result
  have hnone : s.resValid ≠ true := fun hv => by have := (hcomes hv).1; omega
  exact ⟨hi.params, ⟨hwf, hi.memory.2⟩, hsamples, hi.table, hi.handOver,
    ⟨hundet, hzero, fun hv => absurd hv hnone, hdet⟩, hi.record⟩

theorem inv_setMaxCount {s : State} (hi : Inv s) {v : Word} (hv : v.toNat < 2 ^ 24) : Inv (setMaxCount v s) := by
  obtain ⟨-, hbest, hcorr, -, hrest⟩ := hi.handOver
  obtain ⟨hnone, hsome⟩ := hi.table
  refine ⟨hi.params, hi.memory, hi.samples, ⟨hnone, fun hvalid => ?_⟩,
    ⟨fun h => Bool.noConfusion h, hbest, hcorr, hv, hrest⟩, hi.result, hi.record⟩
  obtain ⟨hlo, hkeys, hcounts, -, hmark⟩ := hsome hvalid
  exact ⟨hlo, hkeys, hcounts, rfl, hmark⟩

theorem inv_setBestLag {s : State} (hi : Inv s) {v : Word} (hv : v.toNat < 2 ^ 24) : Inv (setBestLag v s) := by
  obtain ⟨hmax, -, hcorr, hmaxc, -, hclag⟩ := hi.handOver
  obtain ⟨hnone, hsome⟩ := hi.table
  refine ⟨hi.params, hi.memory, hi.samples, ⟨hnone, fun hvalid => ?_⟩,
    ⟨hmax, fun h => Bool.noConfusion h, hcorr, hmaxc, hv, hclag⟩, hi.result, hi.record⟩
  obtain ⟨hlo, hkeys, hcounts, hmark, -⟩ := hsome hvalid
  exact ⟨hlo, hkeys, hcounts, hmark, rfl⟩

theorem inv_setCorrLag {s : State} (hi : Inv s) {v : Word} (hv : v.toNat < 2 ^ 24) : Inv (setCorrLag v s) := by
  obtain ⟨hmax, hbest, -, hmaxc, hblag, -⟩ := hi.handOver
  obtain ⟨hundet, hzero, hcomes, hdet⟩ := hi.result
  exact ⟨hi.params, hi.memory, hi.samples, hi.table,
    ⟨hmax, hbest, fun h => Bool.noConfusion h, hmaxc, hblag, hv⟩,
    ⟨hundet, hzero, fun h => ⟨(hcomes h).1, rfl⟩, hdet⟩, hi.record⟩

/-- A table may be written over when both extremes hold a value (10_state.md R25, R26). -/
theorem inv_setTable {s : State} (hi : Inv s) {m : Cells 16} {lo : Nat} (hlo : lo < halfWindow s.cfg)
    (hkeys : m.map Prod.fst = List.range' lo (halfWindow s.cfg - lo))
    (hcounts : ∀ c ∈ m, c.2.toNat ≤ cmpBits s.cfg) (hmax : s.vMaxc = true) (hbest : s.vBlag = true) :
    Inv (setTable m lo s) := by
  obtain ⟨hwf, hbits⟩ := hi.memory
  exact ⟨hi.params, ⟨setTable_keeps_wf hwf (rising_of_keys hkeys), hbits⟩, hi.samples,
    ⟨fun h => Bool.noConfusion h, fun _ => ⟨hlo, hkeys, hcounts, hmax, hbest⟩⟩, hi.handOver, hi.result,
    hi.record⟩

/-- An undetermined result is 0 in all three registers (10_state.md R28). -/
theorem inv_setResult_undetermined {s : State} (hi : Inv s) (hfull : s.wrIdx = windowSize s.cfg)
    (hmark : s.vClag = true) : Inv (setResult true 0#32 0#32 0#32 s) :=
  ⟨hi.params, hi.memory, hi.samples, hi.table, hi.handOver,
    ⟨fun h => Bool.noConfusion h, fun _ => ⟨rfl, rfl, rfl⟩, fun _ => ⟨hfull, hmark⟩,
      fun h => Bool.noConfusion h.2⟩, hi.record⟩

theorem inv_setResult_frequency {s : State} (hi : Inv s) (hfull : s.wrIdx = windowSize s.cfg)
    (hmark : s.vClag = true) {e0 e1 f : Word} (he0 : 1 ≤ e0.toNat) (hap : e0.toNat + 2 ≤ e1.toNat)
    (he1 : e1.toNat < windowSize s.cfg) (hf : 1 ≤ f.toNat) (hrate : f.toNat < s.cfg.sampleRate * 4096) :
    Inv (setResult false e0 e1 f s) :=
  ⟨hi.params, hi.memory, hi.samples, hi.table, hi.handOver,
    ⟨fun _ => rfl, fun h => h.elim (fun h => Bool.noConfusion h) (fun h => Bool.noConfusion h),
      fun _ => ⟨hfull, hmark⟩, fun _ => ⟨he0, hap, he1, hf, hrate⟩⟩, hi.record⟩

/-! ### Every engine keeps the invariant -/

theorem inv_takeSample {s t : State} (hi : Inv s) {smp : Sample} (h : takeSample smp s = .ok t) : Inv t := by
  obtain ⟨w, hw, happ⟩ := takeSample_writes h
  exact inv_appendSig (inv_setBits (inv_setLatched hi (zcNext s.latched smp)) hw w) happ

theorem inv_writeBit {s t : State} (hi : Inv s) {i : Nat} {v : Bool} (h : writeBit s i v = .ok t) : Inv t := by
  obtain ⟨w, hw, rfl⟩ := writeBit_writes h
  exact inv_setBits hi hw w

/-- The counts, their maximum and the lag of their minimum fit where they are stored (41_bitstream.md R127). -/
theorem inv_autocorrelate {s t : State} (hi : Inv s) {start maxCount lag : Nat} (hstart : start < halfWindow s.cfg)
    (h : autocorrelate start s = .ok (t, maxCount, lag)) : Inv t := by
  obtain ⟨maxCount', lag', heq, -, hlag, -, -, -, hmax⟩ := autocorrelate_of_lt hi.params hstart
  obtain ⟨rfl, rfl, rfl⟩ : _ ∧ maxCount' = maxCount ∧ lag' = lag := by simpa using heq.symm.trans h
  have hsize := derived_sizes hi.params
  have hinv := inv_setBestLag (v := BitVec.ofNat 32 lag')
    (inv_setMaxCount hi (v := BitVec.ofNat 32 maxCount') (by simp only [BitVec.toNat_ofNat]; omega))
    (by simp only [BitVec.toNat_ofNat]; omega)
  refine inv_setTable hinv hstart ?_ ?_ rfl rfl
  · simp [lagsFrom, Function.comp_def]
  · intro c hc
    obtain ⟨p, -, rfl⟩ := List.mem_map.mp hc
    exact (Nat.mod_le _ _).trans (wordCountAt_le s p)

theorem inv_applyCorrection {s t : State} (hi : Inv s) {c : Nat} (h : applyCorrection s = .ok (t, c)) : Inv t := by
  obtain ⟨hc, rfl⟩ := applyCorrection_eq_ok.mp h
  have hle := correct_le hc
  obtain ⟨-, -, -, -, hbest, -⟩ := hi.handOver
  exact inv_setCorrLag hi (by simp only [BitVec.toNat_ofNat]; omega)

theorem inv_applyRefinement {s t : State} (hi : Inv s) (hfull : s.wrIdx = windowSize s.cfg) (hmark : s.vClag = true)
    (h : applyRefinement s = .ok t) : Inv t := by
  obtain ⟨r, hr, rfl⟩ := applyRefinement_eq_ok.mp h
  cases r with
  | undetermined => exact inv_respond (inv_setResult_undetermined hi hfull hmark) _
  | frequency e0 e1 q =>
    obtain ⟨he0, hap, he1, hq, hrate⟩ := refineAt_frequency_bounds hi.params hi.samples hfull hr
    have hw := (windowSize_bounds hi.params).2
    have hsr : s.cfg.sampleRate < 2 ^ 20 := hi.params.2.1
    have ofNat_toNat : ∀ n < 2 ^ 32, (BitVec.ofNat 32 n).toNat = n := fun n hn => by
      rw [BitVec.toNat_ofNat, Nat.mod_eq_of_lt hn]
    have h0 := ofNat_toNat e0 (by omega)
    have h1 := ofNat_toNat e1 (by omega)
    have h2 := ofNat_toNat q (by omega)
    exact inv_respond (inv_setResult_frequency hi hfull hmark (by omega) (by omega) (by omega) (by omega) (by omega)) _

theorem immWord_lt (imm : BitVec 24) : (immWord imm).toNat < 2 ^ 24 := by
  have := imm.isLt
  simp only [immWord, BitVec.toNat_setWidth]
  omega

theorem inv_loadRegister {s : State} (hi : Inv s) (reg : Reg) (imm : BitVec 24) :
    Inv (loadRegister reg (immWord imm) s) := by
  unfold loadRegister
  split
  · exact inv_setMaxCount hi (immWord_lt imm)
  · exact inv_setBestLag hi (immWord_lt imm)
  · exact inv_setCorrLag hi (immWord_lt imm)
  · exact hi

/-! ### Every command and every step keep the invariant -/

/-- `RUN` passes on what its three engines keep: the correction leaves the window full and sets its mark. -/
theorem inv_run {s a b t : State} {maxCount lag c : Nat} (hi : Inv s) (hfull : s.wrIdx = windowSize s.cfg)
    (ha : autocorrelate s.cfg.minPeriod s = .ok (a, maxCount, lag)) (hb : applyCorrection a = .ok (b, c))
    (ht : applyRefinement b = .ok t) : Inv t := by
  have hinv := inv_applyCorrection (inv_autocorrelate hi (minPeriod_lt_halfWindow hi.params) ha) hb
  obtain ⟨m, rfl⟩ := autocorrelate_writes ha
  obtain ⟨-, rfl⟩ := applyCorrection_eq_ok.mp hb
  exact inv_applyRefinement hinv hfull rfl ht

theorem inv_completes {i : Instr} {s t : State} (hi : Inv s) (h : Completes s i t) : Inv t := by
  cases h with
  | nop | bget | tget | rdr | wget => exact inv_respond hi _
  | wrst => exact inv_respond (inv_windowReset hi) _
  | zc smp => exact inv_respond (inv_setLatched hi _) _
  | push smp u hfull hu => exact inv_respond (inv_takeSample hi hu) _
  | bset idx v u hu => exact inv_respond (inv_writeBit hi hu) _
  | acorr idx u maxCount lag hidx hu => exact inv_respond (inv_autocorrelate hi hidx hu) _
  | hcorr u c hready hlag hu => exact inv_respond (inv_applyCorrection hi hu) _
  | refine _ hfull hmark hlag ht => exact inv_applyRefinement hi hfull hmark ht
  | run a b _ maxCount lag c hfull ha hb ht => exact inv_run hi hfull ha hb ht
  | ldr reg imm hreg => exact inv_respond (inv_loadRegister hi reg imm) _

/-- Every command keeps the invariant, whether it completes or faults. -/
theorem exec_keeps_inv {i : Instr} {s t : State} (hi : Inv s) (h : exec i s = .next t) : Inv t := by
  rcases exec_next h with ⟨c, rfl⟩ | h
  · exact inv_raise hi c _
  · exact inv_completes hi h

/-- Settles O11, by cases on the host's event: a command keeps the invariant by `exec_keeps_inv`. -/
theorem stepKeepsInvariant : Obligations.StepKeepsInvariant := by
  intro s t hi h
  rcases step_next h with rfl | ⟨rest, rfl | ⟨cw, rfl⟩ | ⟨i, h⟩⟩
  · exact hi
  · exact inv_hardReset hi.params
  · exact inv_raise (inv_setPending hi rest) _ _
  · exact exec_keeps_inv (inv_setPending hi rest) h

/-! ### The flags and their writers (10_state.md R32) -/

section

/-- A flag is set only where `setBy` holds and cleared only where `clearBy` does. -/
structure FlagMoves (old new : Bool) (setBy clearBy : Prop) : Prop where
  sets : old = false → new = true → setBy
  clears : old = true → new = false → clearBy

variable {old new : Bool} {setBy clearBy : Prop}

theorem FlagMoves.same (h : new = old) : FlagMoves old new setBy clearBy :=
  ⟨fun h0 h1 => by simp [h, h0] at h1, fun h1 h0 => by simp [h, h1] at h0⟩

theorem FlagMoves.toSet (h : setBy) (hnew : new = true) : FlagMoves old new setBy clearBy :=
  ⟨fun _ _ => h, fun _ h0 => by simp [hnew] at h0⟩

theorem FlagMoves.toClear (h : clearBy) (hnew : new = false) : FlagMoves old new setBy clearBy :=
  ⟨fun _ h1 => by simp [hnew] at h1, fun _ _ => h⟩

theorem FlagMoves.either (hset : setBy) (hclear : clearBy) : FlagMoves old new setBy clearBy :=
  ⟨fun _ _ => hset, fun _ _ => hclear⟩

/-- The latch rises on a sample above 0 and falls on one below -1/10 only (40_zerocross.md R102). -/
theorem zcNext_moves (l : Bool) (smp : Sample) :
    FlagMoves l (zcNext l smp) (1 ≤ smp.toInt) (smp.toInt ≤ -3277) := by
  unfold zcNext
  split
  · next hlow =>
    have : 10 * smp.toInt < -1 * 32768 := of_decide_eq_true hlow
    exact .toClear (by omega) rfl
  · split
    · next hhigh =>
      have : 0 * 32768 < 1 * smp.toInt := of_decide_eq_true hhigh
      exact .toSet (by omega) rfl
    · exact .same rfl

theorem windowSize_pos (p : Params) : 0 < windowSize p := by
  obtain ⟨j, hj, -⟩ := powerOfTwoFrom_spec (2 * p.maxPeriod)
  rw [windowSize, hj]
  exact Nat.two_pow_pos j

/-- The table of 10_state.md R32: for each flag, the commands that set it and those that clear it. A field not
given says that the command leaves the flag as it was. -/
structure FlagTable (i : Instr) (s t : State) : Prop where
  latched : FlagMoves s.latched t.latched
    (∃ smp, (i = .zc smp ∨ i = .push smp) ∧ 1 ≤ smp.toInt)
    (i = .wrst ∨ ∃ smp, (i = .zc smp ∨ i = .push smp) ∧ smp.toInt ≤ -3277) := by exact .same (by simp [raise])
  full : FlagMoves (winFull s) (winFull t) (∃ smp, i = .push smp ∧ s.wrIdx + 1 = t.wrIdx) (i = .wrst) := by
    exact .same (by simp [raise, winFull])
  tblValid : FlagMoves s.tblValid t.tblValid (i = .run ∨ ∃ idx, i = .acorr idx) (i = .wrst) := by
    exact .same (by simp [raise])
  vMaxc : FlagMoves s.vMaxc t.vMaxc
    (i = .run ∨ (∃ idx, i = .acorr idx) ∨ ∃ imm, i = .ldr .maxCount imm) (i = .wrst) := by
    exact .same (by simp [raise])
  vBlag : FlagMoves s.vBlag t.vBlag
    (i = .run ∨ (∃ idx, i = .acorr idx) ∨ ∃ imm, i = .ldr .bestLag imm) (i = .wrst) := by
    exact .same (by simp [raise])
  vClag : FlagMoves s.vClag t.vClag
    (i = .hcorr ∨ i = .run ∨ ∃ imm, i = .ldr .corrLag imm) (i = .wrst) := by exact .same (by simp [raise])
  resValid : FlagMoves s.resValid t.resValid (i = .refine ∨ i = .run) (i = .wrst) := by exact .same (by simp [raise])
  undet : FlagMoves s.undet t.undet (i = .refine ∨ i = .run) (i = .refine ∨ i = .run ∨ i = .wrst) := by
    exact .same (by simp [raise])
  error : FlagMoves (errFlag s) (errFlag t) (∃ c, t.rsp = some (.fault c)) False := by
    exact .same (by simp [errFlag])

variable {i : Instr} {s t u : State}

/-- A fault moves no flag but `ERR`, which it sets (60_exceptions.md R204). -/
theorem raise_flags (i : Instr) (s : State) (c : Cause) (cw : Word) : FlagTable i s (raise c cw s) := by
  have herr : errFlag (raise c cw s) = true := by
    have hne := (code_bounds c).1
    simp only [errFlag, raise, respond_errCode, record_errCode]
    split <;> simp [*]
  exact { error := .toSet ⟨c, rfl⟩ herr }

theorem wrst_flags : FlagTable .wrst s (respond (.ok 0#32) (windowReset s)) where
  latched := .toClear (.inl rfl) rfl
  full := .toClear rfl (by have := windowSize_pos s.cfg; simp [winFull]; omega)
  tblValid := .toClear rfl rfl
  vMaxc := .toClear rfl rfl
  vBlag := .toClear rfl rfl
  vClag := .toClear rfl rfl
  resValid := .toClear rfl rfl
  undet := .toClear (.inr (.inr rfl)) rfl

/-- The latch of `ZC` and `PUSH` (10_state.md R32). -/
theorem zcNext_latched {smp : Sample} (hi : i = .zc smp ∨ i = .push smp) (l : Bool) :
    FlagMoves l (zcNext l smp) (∃ smp, (i = .zc smp ∨ i = .push smp) ∧ 1 ≤ smp.toInt)
      (i = .wrst ∨ ∃ smp, (i = .zc smp ∨ i = .push smp) ∧ smp.toInt ≤ -3277) :=
  ⟨fun h0 h1 => ⟨smp, hi, (zcNext_moves l smp).sets h0 h1⟩,
    fun h1 h0 => .inr ⟨smp, hi, (zcNext_moves l smp).clears h1 h0⟩⟩

theorem push_flags {smp : Sample} (hfull : s.wrIdx ≠ windowSize s.cfg) (hu : takeSample smp s = .ok u) (v : Word) :
    FlagTable (.push smp) s (respond (.ok v) u) := by
  obtain ⟨w, -, happ⟩ := takeSample_writes hu
  obtain ⟨-, rfl⟩ := appendSig_eq_ok.mp happ
  exact {
    latched := zcNext_latched (.inr rfl) s.latched
    full := ⟨fun _ _ => ⟨smp, rfl, rfl⟩, fun h => absurd ((winFull_iff s).mp h) hfull⟩ }

theorem acorr_flags {idx maxCount lag : Nat} (hu : autocorrelate idx s = .ok (u, maxCount, lag)) (v : Word) :
    FlagTable (.acorr idx) s (respond (.ok v) u) := by
  obtain ⟨m, rfl⟩ := autocorrelate_writes hu
  exact {
    tblValid := .toSet (.inr ⟨idx, rfl⟩) rfl
    vMaxc := .toSet (.inr (.inl ⟨idx, rfl⟩)) rfl
    vBlag := .toSet (.inr (.inl ⟨idx, rfl⟩)) rfl }

theorem refine_flags (ht : applyRefinement s = .ok t) : FlagTable .refine s t := by
  obtain ⟨v, u, e0, e1, f, rfl⟩ := applyRefinement_writes ht
  exact { resValid := .toSet (.inl rfl) rfl, undet := .either (.inl rfl) (.inl rfl) }

theorem run_flags {a b : State} {maxCount lag c : Nat}
    (ha : autocorrelate s.cfg.minPeriod s = .ok (a, maxCount, lag)) (hb : applyCorrection a = .ok (b, c))
    (ht : applyRefinement b = .ok t) : FlagTable .run s t := by
  obtain ⟨m, rfl⟩ := autocorrelate_writes ha
  obtain ⟨-, rfl⟩ := applyCorrection_eq_ok.mp hb
  obtain ⟨v, u, e0, e1, f, rfl⟩ := applyRefinement_writes ht
  exact {
    tblValid := .toSet (.inl rfl) rfl
    vMaxc := .toSet (.inl rfl) rfl
    vBlag := .toSet (.inl rfl) rfl
    vClag := .toSet (.inr (.inl rfl)) rfl
    resValid := .toSet (.inr rfl) rfl
    undet := .either (.inr rfl) (.inr (.inl rfl)) }

theorem ldr_flags (reg : Reg) (imm : BitVec 24) (s : State) (v : Word) :
    FlagTable (.ldr reg imm) s (respond (.ok v) (loadRegister reg (immWord imm) s)) := by
  unfold loadRegister
  split
  · exact { vMaxc := .toSet (.inr (.inr ⟨imm, rfl⟩)) rfl }
  · exact { vBlag := .toSet (.inr (.inr ⟨imm, rfl⟩)) rfl }
  · exact { vClag := .toSet (.inr (.inr ⟨imm, rfl⟩)) rfl }
  · exact {}

theorem completes_flags (h : Completes s i t) : FlagTable i s t := by
  cases h with
  | nop | bget | tget | rdr | wget => exact {}
  | wrst => exact wrst_flags
  | zc smp => exact { latched := zcNext_latched (.inl rfl) s.latched }
  | push smp u hfull hu => exact push_flags hfull hu _
  | bset idx v u hu =>
    obtain ⟨w, -, rfl⟩ := writeBit_writes hu
    exact {}
  | acorr idx u maxCount lag hidx hu => exact acorr_flags hu _
  | hcorr u c hready hlag hu =>
    obtain ⟨-, rfl⟩ := applyCorrection_eq_ok.mp hu
    exact { vClag := .toSet (.inl rfl) rfl }
  | refine _ hfull hmark hlag ht => exact refine_flags ht
  | run a b _ maxCount lag c hfull ha hb ht => exact run_flags ha hb ht
  | ldr reg imm hreg => exact ldr_flags reg imm s _

/-- Every command moves the flags as 10_state.md R32 tables it. -/
theorem exec_flags (h : exec i s = .next t) : FlagTable i s t := by
  rcases exec_next h with ⟨c, rfl⟩ | h
  · exact raise_flags i s c _
  · exact completes_flags h

theorem winFull_eq_false_iff (s : State) : winFull s = false ↔ s.wrIdx ≠ windowSize s.cfg := by
  rw [← Bool.not_eq_true, winFull_iff]

theorem errFlag_iff (s : State) : errFlag s = true ↔ s.errCode ≠ 0#4 := by simp [errFlag]

theorem errFlag_eq_false_iff (s : State) : errFlag s = false ↔ s.errCode = 0#4 := by simp [errFlag]

end

/-- Settles O54, by `exec_flags`: each conjunct is one column of one row of `FlagTable`. -/
theorem flagsWrittenAsTabled : Obligations.FlagsWrittenAsTabled := by
  intro i s t h
  obtain ⟨hlatched, hfull, htable, hmaxc, hblag, hclag, hres, hundet, herr⟩ := exec_flags h
  have hfullSet := hfull.sets
  have hfullClear := hfull.clears
  have herrSet := herr.sets
  have herrClear := herr.clears
  rw [winFull_eq_false_iff, winFull_iff] at hfullSet
  rw [winFull_iff, winFull_eq_false_iff] at hfullClear
  rw [errFlag_eq_false_iff, errFlag_iff] at herrSet
  rw [errFlag_iff, errFlag_eq_false_iff] at herrClear
  exact ⟨hlatched.sets, hlatched.clears, hfullSet, hfullClear, htable.sets, htable.clears, hmaxc.sets, hmaxc.clears,
    hblag.sets, hblag.clears, hclag.sets, hclag.clears, hres.sets, hres.clears, hundet.sets, hundet.clears, herrSet,
    herrClear⟩

/-! ### The configuration, `STATUS` and `WRST` (10_state.md R31, R33, R39) -/

/-- What no command writes: the parameters, the events to come. -/
theorem completes_frame {i : Instr} {s t : State} (h : Completes s i t) :
    t.cfg = s.cfg ∧ t.pending = s.pending ∧ t.rsp.isSome = true := by
  cases h with
  | nop | bget | tget | rdr | wget | wrst | zc => exact ⟨rfl, rfl, rfl⟩
  | push smp u hfull hu =>
    obtain ⟨w, -, happ⟩ := takeSample_writes hu
    obtain ⟨-, rfl⟩ := appendSig_eq_ok.mp happ
    exact ⟨rfl, rfl, rfl⟩
  | bset idx v u hu =>
    obtain ⟨w, -, rfl⟩ := writeBit_writes hu
    exact ⟨rfl, rfl, rfl⟩
  | acorr idx u maxCount lag hidx hu =>
    obtain ⟨m, rfl⟩ := autocorrelate_writes hu
    exact ⟨rfl, rfl, rfl⟩
  | hcorr u c hready hlag hu =>
    obtain ⟨-, rfl⟩ := applyCorrection_eq_ok.mp hu
    exact ⟨rfl, rfl, rfl⟩
  | refine _ hfull hmark hlag ht =>
    obtain ⟨v, u, e0, e1, f, rfl⟩ := applyRefinement_writes ht
    exact ⟨rfl, rfl, rfl⟩
  | run a b _ maxCount lag c hfull ha hb ht =>
    obtain ⟨m, rfl⟩ := autocorrelate_writes ha
    obtain ⟨-, rfl⟩ := applyCorrection_eq_ok.mp hb
    obtain ⟨v, u, e0, e1, f, rfl⟩ := applyRefinement_writes ht
    exact ⟨rfl, rfl, rfl⟩
  | ldr reg imm hreg => cases reg <;> exact ⟨rfl, rfl, rfl⟩

/-- A command leaves the parameters and the events to come, and ends with a response (30_encoding.md R80). -/
theorem exec_frame {i : Instr} {s t : State} (h : exec i s = .next t) :
    t.cfg = s.cfg ∧ t.pending = s.pending ∧ t.rsp.isSome = true := by
  rcases exec_next h with ⟨c, rfl⟩ | h
  · simp [raise]
  · exact completes_frame h

theorem step_cfg {s t : State} (h : step s = .next t) : t.cfg = s.cfg := by
  rcases step_next h with rfl | ⟨rest, rfl | ⟨cw, rfl⟩ | ⟨i, h⟩⟩
  · rfl
  · rfl
  · simp [raise]
  · exact (exec_frame h).1

theorem ldr_of_not_loadable {reg : Reg} (h : loadable reg = false) (imm : BitVec 24) (s : State) :
    FaultsWith .regAccess (encode (.ldr reg imm)) s (exec (.ldr reg imm) s) := by
  have hexec : exec (.ldr reg imm) s = raised .regAccess (encode (.ldr reg imm)) s := if_pos h
  exact hexec ▸ raised_faultsWith _ _ s

/-- Settles O56: every step keeps `cfg` by `step_cfg`, and registers 12 to 15 are not loadable. -/
theorem configurationIsConstant : Obligations.ConfigurationIsConstant := by
  refine ⟨fun s t h => step_cfg h, fun reg imm s hreg => ldr_of_not_loadable ?_ imm s⟩
  rcases hreg with rfl | rfl | rfl | rfl <;> rfl

/-! #### `STATUS` bit by bit -/

/-- One flag at its place in a word. -/
theorem getLsbD_bitWord_shiftLeft (b : Bool) (n k : Nat) (hn : n < 32) :
    (bitWord b <<< n).getLsbD k = (decide (k = n) && b) := by
  by_cases hk : k = n
  · subst hk
    cases b <;> simp [bitWord, hn]
  · cases b with
    | false => simp [bitWord]
    | true =>
      simp only [bitWord, if_true, BitVec.getLsbD_shiftLeft, BitVec.getLsbD_one]
      have : ¬ (n ≤ k ∧ k - n = 0) := by omega
      grind

theorem statusWord_bit (s : State) (k : Nat) :
    (statusWord s).getLsbD k =
      ((decide (k = 0) && s.latched) || (decide (k = 1) && winFull s) || (decide (k = 2) && s.tblValid) ||
        (decide (k = 3) && s.vMaxc) || (decide (k = 4) && s.vBlag) || (decide (k = 5) && s.vClag) ||
        (decide (k = 6) && s.resValid) || (decide (k = 7) && s.undet) || (decide (k = 8) && errFlag s)) := by
  have h0 : bitWord s.latched = bitWord s.latched <<< 0 := by simp
  rw [statusWord, h0]
  simp (disch := decide) only [BitVec.getLsbD_or, getLsbD_bitWord_shiftLeft]

theorem statusWord_high_bit (s : State) {k : Nat} (hk : 9 ≤ k) : (statusWord s).getLsbD k = false := by
  have hne : ∀ n < 9, k ≠ n := by omega
  simp [statusWord_bit, hne]

/-- Settles O50, by `statusWord_bit` at each place. -/
theorem statusShowsFlags : Obligations.StatusShowsFlags := by
  intro s
  have hundet : (statusWord s).getLsbD 7 = s.undet := by rw [statusWord_bit]; simp
  refine ⟨statusWord s, rfl, ?_, ?_, ?_, ?_, ?_, ?_, ?_, hundet, ?_, fun k hk => statusWord_high_bit s hk, ?_⟩
  · rw [statusWord_bit]; simp
  · rw [statusWord_bit]; simp [winFull_iff]
  · rw [statusWord_bit]; simp
  · rw [statusWord_bit]; simp
  · rw [statusWord_bit]; simp
  · rw [statusWord_bit]; simp
  · rw [statusWord_bit]; simp
  · rw [statusWord_bit]; simp [errFlag_iff]
  · intro hi hres
    rw [hundet]
    exact hi.result.1 hres

/-! #### After `WRST` -/

theorem exec_wrst (s : State) : exec .wrst s = .next (respond (.ok 0#32) (windowReset s)) := rfl

/-- The state `WRST` leaves is that of the reset block but for the build, the record and the pending events. -/
theorem wrst_forgets {s s' : State} (hcfg : s.cfg = s'.cfg) (hcode : s.errCode = s'.errCode)
    (hcmd : s.errCmd = s'.errCmd) (hpending : s.pending = s'.pending) :
    respond (.ok 0#32) (windowReset s) = respond (.ok 0#32) (windowReset s') := by
  refine state_ext_block ?_ hcfg hpending rfl
  simp only [respond_toBlock, windowReset_toBlock, hcode, hcmd]

/-- Settles O40: the first and the last part are `wrst_forgets`, since `WRST` itself leaves build, record and
events; the reset block is the one `WRST` leaves, by definition. -/
theorem wrstForgetsWindow : Obligations.WrstForgetsWindow := by
  refine ⟨fun s s' hcfg hcode hcmd hpending => ?_, fun p => rfl, fun s t h => ?_⟩
  · exact congrArg Host.Outcome.next (wrst_forgets hcfg hcode hcmd hpending)
  · rw [exec_wrst] at h
    cases h
    exact congrArg Host.Outcome.next (wrst_forgets rfl rfl rfl rfl)

/-! ### A command reads the block and the parameters only

What the engines answer is a function of the memories and the parameters (the lemmas `_congr`); so a block at a port
with other events to come and another earlier response takes the same commands to the same block
(`exec_relabel`). -/

section

variable {s t : State}

theorem shiftedWord_congr (hm : s.mem.bits = t.mem.bits) (hc : s.cfg = t.cfg) (index shift i : Nat) :
    shiftedWord s index shift i = shiftedWord t index shift i := by
  simp only [shiftedWord, readBits_congr hm hc]

theorem countWords_congr (hm : s.mem.bits = t.mem.bits) (hc : s.cfg = t.cfg) (index shift : Nat) (l : List Nat) :
    countWords s index shift l = countWords t index shift l := by
  induction l with
  | nil => rfl
  | cons i l ih => simp only [countWords, readBits_congr hm hc, shiftedWord_congr hm hc, ih]

theorem countsAt_congr (hm : s.mem.bits = t.mem.bits) (hc : s.cfg = t.cfg) (l : List Nat) :
    countsAt s l = countsAt t l := by
  induction l with
  | nil => rfl
  | cons pos l ih => simp only [countsAt, countAt, countWords_congr hm hc, hc, ih]

theorem echoesStrong_congr (hm : s.mem.table = t.mem.table) (hc : s.cfg = t.cfg) (maxCount candidate : Nat)
    (l : List Nat) : echoesStrong s maxCount candidate l = echoesStrong t maxCount candidate l := by
  induction l with
  | nil => rfl
  | cons k l ih => simp only [echoesStrong, readTable_congr hm hc, ih]

theorem searchDivisor_congr (hm : s.mem.table = t.mem.table) (hc : s.cfg = t.cfg) (maxCount rawLag n : Nat) :
    searchDivisor s maxCount rawLag n = searchDivisor t maxCount rawLag n := by
  induction n with
  | zero => rfl
  | succ n ih => simp only [searchDivisor, echoesStrong_congr hm hc, ih]

theorem correct_congr (hm : s.mem.table = t.mem.table) (hc : s.cfg = t.cfg) (maxCount rawLag : Nat) :
    correct s maxCount rawLag = correct t maxCount rawLag := by
  simp only [correct, hc, searchDivisor_congr hm hc]

theorem rawAt_congr (hm : s.mem.sig = t.mem.sig) (hc : s.cfg = t.cfg) (i : Nat) : rawAt s i = rawAt t i := by
  simp only [rawAt, readSig_congr hm hc]

theorem scanEdge_congr (hm : s.mem.sig = t.mem.sig) (hc : s.cfg = t.cfg) (n i : Nat) :
    scanEdge s n i = scanEdge t n i := by
  induction n generalizing i with
  | zero => rfl
  | succ n ih => simp only [scanEdge, rawAt_congr hm hc, ih]

theorem refineAt_congr (hm : s.mem.sig = t.mem.sig) (hc : s.cfg = t.cfg) (lag : Nat) :
    refineAt s lag = refineAt t lag := by
  simp only [refineAt, nextEdge, refineEdges, hc, scanEdge_congr hm hc, rawAt_congr hm hc]

end

theorem readBit_congr {s t : State} (hm : s.mem.bits = t.mem.bits) (hc : s.cfg = t.cfg) (i : Nat) :
    readBit s i = readBit t i := by
  simp only [readBit, readBits_congr hm hc]

/-- The same block of the same build, at a port with the events `p` to come and the earlier response `r`. -/
def relabel (p : List HostEvent) (r : Option Response) (s : State) : State := { s with pending := p, rsp := r }

/-- The same state with other events to come. -/
abbrev withEvents (p : List HostEvent) (s : State) : State := relabel p s.rsp s

/-- An answer with its next state changed by `f`; what stops the model stops it still. -/
def onNext (f : State → State) : Out → Out
  | .next t => .next (f t)
  | .fault x => .fault x
  | .refused x => .refused x

section

variable (p : List HostEvent) (r : Option Response) (s : State)

@[simp] theorem relabel_cfg : (relabel p r s).cfg = s.cfg := rfl
@[simp] theorem relabel_toBlock : (relabel p r s).toBlock = s.toBlock := rfl

/-! #### The shared operations -/

theorem record_relabel (c : Cause) (cw : Word) : record c cw (relabel p r s) = relabel p r (record c cw s) := by
  rw [record, record, relabel_toBlock]
  split <;> rfl

theorem raised_relabel (c : Cause) (cw : Word) :
    raised c cw (relabel p r s) = onNext (withEvents p) (raised c cw s) := by
  rw [raised, raise, record_relabel]
  rfl

theorem writeBits_relabel (a : Nat) (w : Word) :
    writeBits (relabel p r s) a w = (writeBits s a w).map (relabel p r) := by
  rw [writeBits, writeBits, relabel_cfg]
  split <;> rfl

theorem writeBit_relabel (i : Nat) (v : Bool) :
    writeBit (relabel p r s) i v = (writeBit s i v).map (relabel p r) := by
  rw [writeBit, writeBit, readBits_congr (s := relabel p r s) (t := s) rfl rfl]
  cases readBits s (wordOfBit i) with
  | error e => rfl
  | ok w => exact writeBits_relabel p r s _ _

theorem appendSig_relabel (v : Sample) : appendSig (relabel p r s) v = (appendSig s v).map (relabel p r) := by
  rw [appendSig, appendSig, relabel_cfg, relabel_toBlock]
  split <;> rfl

theorem takeSample_relabel (smp : Sample) :
    takeSample smp (relabel p r s) = (takeSample smp s).map (relabel p r) := by
  have hw := writeBit_relabel p r (setLatched (zcNext s.latched smp) s) s.wrIdx (zcNext s.latched smp)
  change writeBit (relabel p r (setLatched (zcNext s.latched smp) s)) s.wrIdx (zcNext s.latched smp) >>= _ = _
  rw [hw, takeSample]
  cases writeBit (setLatched (zcNext s.latched smp) s) s.wrIdx (zcNext s.latched smp) with
  | error e => rfl
  | ok u => exact appendSig_relabel p r u smp

theorem autocorrelate_relabel (start : Nat) :
    autocorrelate start (relabel p r s) = (autocorrelate start s).map (Prod.map (relabel p r) id) := by
  have hcounts := countsAt_congr (s := relabel p r s) (t := s) rfl rfl (lagsFrom s start)
  rw [autocorrelate, autocorrelate, show lagsFrom (relabel p r s) start = lagsFrom s start from rfl, hcounts]
  cases countsAt s (lagsFrom s start) with
  | error e => rfl
  | ok counts =>
    simp only [ok_bind]
    split <;> rfl

theorem applyCorrection_relabel :
    applyCorrection (relabel p r s) = (applyCorrection s).map (Prod.map (relabel p r) id) := by
  rw [applyCorrection, applyCorrection, relabel_toBlock, correct_congr (s := relabel p r s) (t := s) rfl rfl]
  cases correct s s.maxCount.toNat s.bestLag.toNat <;> rfl

theorem applyRefinement_relabel : applyRefinement (relabel p r s) = (applyRefinement s).map (withEvents p) := by
  rw [applyRefinement, applyRefinement, relabel_toBlock, refineAt_congr (s := relabel p r s) (t := s) rfl rfl]
  cases refineAt s s.corrLag.toNat with
  | error e => rfl
  | ok x => cases x <;> rfl

/-! #### The commands -/

theorem execPush_relabel (smp : Sample) :
    execPush smp (relabel p r s) = onNext (withEvents p) (execPush smp s) := by
  rw [execPush, execPush, raised_relabel, takeSample_relabel, show winFull (relabel p r s) = winFull s from rfl]
  split
  · rfl
  · cases takeSample smp s <;> rfl

theorem execBget_relabel (idx : Nat) : execBget idx (relabel p r s) = onNext (withEvents p) (execBget idx s) := by
  rw [execBget, execBget, raised_relabel, readBit_congr (s := relabel p r s) (t := s) rfl rfl, relabel_cfg]
  split
  · rfl
  · cases readBit s idx <;> rfl

theorem execBset_relabel (idx : Nat) (v : Bool) :
    execBset idx v (relabel p r s) = onNext (withEvents p) (execBset idx v s) := by
  rw [execBset, execBset, raised_relabel, writeBit_relabel, relabel_cfg]
  split
  · rfl
  · cases writeBit s idx v <;> rfl

theorem execWget_relabel (idx : Nat) : execWget idx (relabel p r s) = onNext (withEvents p) (execWget idx s) := by
  rw [execWget, execWget, raised_relabel, readBits_congr (s := relabel p r s) (t := s) rfl rfl, relabel_cfg]
  split
  · rfl
  · cases readBits s idx <;> rfl

theorem execAcorr_relabel (idx : Nat) : execAcorr idx (relabel p r s) = onNext (withEvents p) (execAcorr idx s) := by
  rw [execAcorr, execAcorr, raised_relabel, autocorrelate_relabel, relabel_cfg]
  split
  · rfl
  · cases autocorrelate idx s <;> rfl

theorem execTget_relabel (idx : Nat) : execTget idx (relabel p r s) = onNext (withEvents p) (execTget idx s) := by
  rw [execTget, execTget, raised_relabel, raised_relabel, readTable_congr (s := relabel p r s) (t := s) rfl rfl,
    relabel_cfg, relabel_toBlock]
  split
  · rfl
  · split
    · rfl
    · cases readTable s idx <;> rfl

theorem execHcorr_relabel : execHcorr (relabel p r s) = onNext (withEvents p) (execHcorr s) := by
  rw [execHcorr, execHcorr, raised_relabel, raised_relabel, applyCorrection_relabel, relabel_cfg, relabel_toBlock,
    show correctionReady (relabel p r s) = correctionReady s from rfl]
  split
  · rfl
  · split
    · rfl
    · cases applyCorrection s <;> rfl

theorem execRefine_relabel : execRefine (relabel p r s) = onNext (withEvents p) (execRefine s) := by
  rw [execRefine, execRefine, raised_relabel, raised_relabel, raised_relabel, applyRefinement_relabel,
    relabel_toBlock, show winFull (relabel p r s) = winFull s from rfl]
  split
  · rfl
  · split
    · rfl
    · split
      · rfl
      · cases applyRefinement s <;> rfl

theorem execRun_relabel : execRun (relabel p r s) = onNext (withEvents p) (execRun s) := by
  rw [execRun, execRun, raised_relabel, autocorrelate_relabel, relabel_cfg,
    show winFull (relabel p r s) = winFull s from rfl]
  split
  · rfl
  · cases autocorrelate s.cfg.minPeriod s with
    | error e => rfl
    | ok a =>
      change finish (applyCorrection (relabel p r a.1) >>= _) = onNext _ (finish (applyCorrection a.1 >>= _))
      rw [applyCorrection_relabel]
      cases applyCorrection a.1 with
      | error e => rfl
      | ok b =>
        change finish (applyRefinement (relabel p r b.1)) = onNext _ (finish (applyRefinement b.1))
        rw [applyRefinement_relabel]
        cases applyRefinement b.1 <;> rfl

theorem execRdr_relabel (reg : Reg) : execRdr reg (relabel p r s) = onNext (withEvents p) (execRdr reg s) := by
  rw [execRdr, execRdr, raised_relabel, raised_relabel, show regMark (relabel p r s) reg = regMark s reg from rfl]
  split
  · rfl
  · split <;> rfl

theorem execLdr_relabel (reg : Reg) (imm : BitVec 24) :
    execLdr reg imm (relabel p r s) = onNext (withEvents p) (execLdr reg imm s) := by
  rw [execLdr, execLdr, raised_relabel]
  split
  · rfl
  · cases reg <;> rfl

/-- Every command takes the same block to the same block, whatever stands at the port. -/
theorem exec_relabel (i : Instr) : exec i (relabel p r s) = onNext (withEvents p) (exec i s) := by
  cases i with
  | nop => rfl
  | wrst => rfl
  | zc smp => rfl
  | push smp => exact execPush_relabel p r s smp
  | bget idx => exact execBget_relabel p r s idx
  | bset idx v => exact execBset_relabel p r s idx v
  | acorr idx => exact execAcorr_relabel p r s idx
  | tget idx => exact execTget_relabel p r s idx
  | hcorr => exact execHcorr_relabel p r s
  | refine => exact execRefine_relabel p r s
  | run => exact execRun_relabel p r s
  | rdr reg => exact execRdr_relabel p r s reg
  | ldr reg imm => exact execLdr_relabel p r s reg imm
  | wget idx => exact execWget_relabel p r s idx

end

/-- Settles O52: two states of one block and one build are relabellings of each other, so `exec_relabel` applies. -/
theorem commandsReadBlockOnly : Obligations.CommandsReadBlockOnly := by
  intro i s s' t hblock hcfg h
  obtain ⟨-, hpending, hrsp⟩ := exec_frame h
  have hs' : s' = relabel s'.pending s'.rsp s := state_ext_block hblock hcfg rfl rfl
  refine ⟨hpending, hrsp, ?_⟩
  rw [hs', exec_relabel, h]
  rfl

end Sys2Proof.Machine

namespace Sys2Proof.Machine

/-! ### The memories and the host's events (20_memory.md) -/

/-! #### What a step does with the host's next event -/

theorem step_of_no_event {s : State} (h : s.pending = []) : step s = .next s := by
  simp [step, takeEvent, h, idle]

theorem step_of_reset {s : State} {rest : List HostEvent} (h : s.pending = .rst :: rest) :
    step s = .next (hardReset { s with pending := rest }) := by
  simp [step, takeEvent, h]

theorem step_of_command {s : State} {cw : Word} {i : Instr} {rest : List HostEvent}
    (h : s.pending = .cmd cw :: rest) (hd : decode cw = .ok i) : step s = exec i { s with pending := rest } := by
  simp [step, takeEvent, h, hd]

theorem step_of_illegal {s : State} {cw : Word} {e : DecodeError} {rest : List HostEvent}
    (h : s.pending = .cmd cw :: rest) (hd : decode cw = .error e) :
    step s = .next (raise .illegalCmd cw { s with pending := rest }) := by
  simp [step, takeEvent, h, hd, execIllegal, raised]

/-- Settles O7, by cases on the host's next event: the step removes it, and neither a reset, nor a fault, nor a
command (`exec_frame`) touches those behind it. -/
theorem stepTakesOneEvent : Obligations.StepTakesOneEvent := by
  intro s t h
  cases hp : s.pending with
  | nil =>
    rw [step_of_no_event hp] at h
    cases h
    exact hp
  | cons e rest =>
    rw [List.tail_cons]
    cases e with
    | rst =>
      rw [step_of_reset hp] at h
      cases h
      rfl
    | cmd cw =>
      cases hd : decode cw with
      | ok i =>
        rw [step_of_command hp hd] at h
        obtain ⟨-, hpending, -⟩ := exec_frame h
        exact hpending
      | error e =>
        rw [step_of_illegal hp hd] at h
        cases h
        simp [raise]

/-! #### The bit order of a word (20_memory.md R64) -/

/-- The low `k` bits of a number are the sum of its bits at their weights. -/
theorem mod_two_pow_eq_sum_testBit (n k : Nat) :
    n % 2 ^ k = ((List.range k).map (fun o => (n.testBit o).toNat * 2 ^ o)).sum := by
  induction k with
  | zero => simp [Nat.mod_one]
  | succ k ih => rw [List.sum_range_succ, ← ih, Nat.toNat_testBit, Nat.mod_pow_succ, Nat.mul_comm]

theorem toNat_eq_sum_getLsbD {n : Nat} (w : BitVec n) :
    w.toNat = ((List.range n).map (fun o => (w.getLsbD o).toNat * 2 ^ o)).sum := by
  rw [← Nat.mod_eq_of_lt w.isLt, mod_two_pow_eq_sum_testBit]
  simp only [BitVec.testBit_toNat]

/-- A stream bit is the bit at its offset in the word that a read of that word gives. -/
theorem streamBit_of_readBits {s : State} {a : Nat} {w : Word} (h : readBits s a = .ok w) {i : Nat} (hi : i / 32 = a) :
    streamBit s i = w.getLsbD (i % 32) := by
  obtain ⟨-, rfl⟩ := readBits_eq_ok.mp h
  rw [streamBit, hi]

theorem readBit_of_readBits {s : State} {a : Nat} {w : Word} (h : readBits s a = .ok w) {i : Nat} (hi : i / 32 = a) :
    readBit s i = .ok (w.getLsbD (i % 32)) := by
  have hw : readBits s (wordOfBit i) = .ok w := by rwa [wordOfBit, wordWidth, hi]
  simp [readBit, hw, offsetOfBit, wordWidth]

/-- Settles O23: a word is the sum of its own bits (`toNat_eq_sum_getLsbD`), and stream bit `32 a + o` is bit `o` of
the word `a`. -/
theorem wordIsSumOfStreamBits : Obligations.WordIsSumOfStreamBits := by
  intro s a w h
  have hbit : ∀ o ∈ List.range 32, w.getLsbD o = streamBit s (32 * a + o) := by
    intro o ho
    have ho : o < 32 := List.mem_range.mp ho
    rw [streamBit_of_readBits h (by omega), Nat.mul_add_mod, Nat.mod_eq_of_lt ho]
  refine ⟨?_, fun i hi => ⟨readBit_of_readBits h hi, streamBit_of_readBits h hi⟩⟩
  rw [toNat_eq_sum_getLsbD w]
  exact congrArg List.sum (List.map_congr_left fun o ho => by rw [hbit o ho])

/-! #### The reads (20_memory.md R68) -/

/-- The commands that read an element or a register and write none. -/
def isRead : Instr → Bool
  | .bget _ | .wget _ | .tget _ | .rdr _ => true
  | _ => false

/-- A read that completes gives its response and nothing else. -/
theorem completes_read {i : Instr} {s t : State} (hi : isRead i = true) (h : Completes s i t) :
    ∃ v, t = respond (.ok v) s := by
  cases h with
  | bget | wget | tget | rdr => exact ⟨_, rfl⟩
  | nop | wrst | zc | push | bset | acorr | hcorr | refine | run | ldr => cases hi

/-- A fault changes the response and the record only (60_exceptions.md R204). -/
theorem raise_frame (c : Cause) (cw : Word) (s : State) :
    { raise c cw s with rsp := s.rsp, errCode := s.errCode, errCmd := s.errCmd } = s := by
  obtain ⟨t, ht, -, -, -, hframe⟩ := raised_faultsWith c cw s
  cases ht
  exact hframe

/-- Settles O53: a read took a fault (`raise_frame`), which is no `Ok` response, or completed with its response alone
(`completes_read`). -/
theorem readsHaveNoSideEffect : Obligations.ReadsHaveNoSideEffect := by
  intro i s t hread h
  have hi : isRead i = true := by
    rcases hread with ⟨idx, rfl | rfl | rfl⟩ | ⟨reg, rfl⟩ <;> rfl
  rcases exec_next h with ⟨c, rfl⟩ | h
  · refine ⟨raise_frame c _ s, ?_⟩
    rintro ⟨v, hv⟩
    cases hv
  · obtain ⟨v, rfl⟩ := completes_read hi h
    exact ⟨rfl, fun _ => ⟨rfl, rfl⟩⟩

/-! #### The writers of each memory (20_memory.md R60) -/

section

/-- The column "written by" of 20_memory.md R60, with `WRST` for every memory: a memory that differs after command
`i` is one the command writes. A field not given says that the command leaves the memory as it was. -/
structure MemoryTable (i : Instr) (s t : State) : Prop where
  bits : t.mem.bits ≠ s.mem.bits → i = .wrst ∨ (∃ smp, i = .push smp) ∨ ∃ idx v, i = .bset idx v := by
    exact fun h => absurd (by simp [raise]) h
  sig : t.mem.sig ≠ s.mem.sig → i = .wrst ∨ ∃ smp, i = .push smp := by
    exact fun h => absurd (by simp [raise]) h
  table : t.mem.table ≠ s.mem.table → i = .wrst ∨ i = .run ∨ ∃ idx, i = .acorr idx := by
    exact fun h => absurd (by simp [raise]) h

variable {i : Instr} {s t : State}

theorem push_memories {smp : Sample} {u : State} (hu : takeSample smp s = .ok u) (v : Word) :
    MemoryTable (.push smp) s (respond (.ok v) u) := by
  obtain ⟨w, -, happ⟩ := takeSample_writes hu
  obtain ⟨-, rfl⟩ := appendSig_eq_ok.mp happ
  exact { bits := fun _ => .inr (.inl ⟨smp, rfl⟩), sig := fun _ => .inr ⟨smp, rfl⟩ }

theorem bset_memories {idx : Nat} {b : Bool} {u : State} (hu : writeBit s idx b = .ok u) (v : Word) :
    MemoryTable (.bset idx b) s (respond (.ok v) u) := by
  obtain ⟨w, -, rfl⟩ := writeBit_writes hu
  exact { bits := fun _ => .inr (.inr ⟨idx, b, rfl⟩) }

theorem acorr_memories {idx maxCount lag : Nat} {u : State} (hu : autocorrelate idx s = .ok (u, maxCount, lag))
    (v : Word) : MemoryTable (.acorr idx) s (respond (.ok v) u) := by
  obtain ⟨m, rfl⟩ := autocorrelate_writes hu
  exact { table := fun _ => .inr (.inr ⟨idx, rfl⟩) }

theorem run_memories {a b : State} {maxCount lag c : Nat}
    (ha : autocorrelate s.cfg.minPeriod s = .ok (a, maxCount, lag)) (hb : applyCorrection a = .ok (b, c))
    (ht : applyRefinement b = .ok t) : MemoryTable .run s t := by
  obtain ⟨m, rfl⟩ := autocorrelate_writes ha
  obtain ⟨-, rfl⟩ := applyCorrection_eq_ok.mp hb
  obtain ⟨v, u, e0, e1, f, rfl⟩ := applyRefinement_writes ht
  exact { table := fun _ => .inr (.inl rfl) }

theorem loadRegister_mem (reg : Reg) (v : Word) (s : State) : (loadRegister reg v s).mem = s.mem := by
  cases reg <;> rfl

theorem completes_memories (h : Completes s i t) : MemoryTable i s t := by
  cases h with
  | nop | zc | bget | tget | rdr | wget => exact {}
  | wrst => exact ⟨fun _ => .inl rfl, fun _ => .inl rfl, fun _ => .inl rfl⟩
  | push smp u hfull hu => exact push_memories hu _
  | bset idx v u hu => exact bset_memories hu _
  | acorr idx u maxCount lag hidx hu => exact acorr_memories hu _
  | hcorr u c hready hlag hu =>
    obtain ⟨-, rfl⟩ := applyCorrection_eq_ok.mp hu
    exact {}
  | refine _ hfull hmark hlag ht =>
    obtain ⟨v, u, e0, e1, f, rfl⟩ := applyRefinement_writes ht
    exact {}
  | run a b _ maxCount lag c hfull ha hb ht => exact run_memories ha hb ht
  | ldr reg imm hreg =>
    have hmem := loadRegister_mem reg (immWord imm) s
    exact ⟨by simp [hmem], by simp [hmem], by simp [hmem]⟩

/-- Every command writes the memories as 20_memory.md R60 tables it; one that faults writes none. -/
theorem exec_memories (h : exec i s = .next t) : MemoryTable i s t := by
  rcases exec_next h with ⟨c, rfl⟩ | h
  · exact {}
  · exact completes_memories h

end

/-- Settles O55: each conjunct is one row of `MemoryTable`, which every command meets (`exec_memories`). -/
theorem memoriesWrittenAsTabled : Obligations.MemoriesWrittenAsTabled := by
  intro i s t h
  obtain ⟨hbits, hsig, htable⟩ := exec_memories h
  exact ⟨hbits, hsig, htable⟩

end Sys2Proof.Machine

namespace Sys2Proof.Machine

/-! ### The command words (30_encoding.md)

Three facts settle the statements: the word of a command decodes to it (`decodeOfEncode`), a word with the fixed bits of
a row is the word of a command of that row (`exists_encode_of_row`), and a word that decodes has the fixed bits of its
command's row (`row_of_decode`). -/

/-! #### The fixed bits of a row: the opcode and one must-be-zero field -/

/-- The lowest must-be-zero bit of a row: the first fixed bit below the opcode. -/
def zeroLow (r : Row) : Nat := ((List.range 28).find? (fun k => r.mask.getLsbD k)).getD 0

/-- How many must-be-zero bits a row has: the fixed bits below the opcode. -/
def zeroLen (r : Row) : Nat := (List.range 28).countP (fun k => r.mask.getLsbD k)

theorem mask_bit : ∀ r ∈ opcodeTable, ∀ k < 32,
    r.mask.getLsbD k = decide (28 ≤ k ∨ zeroLow r ≤ k ∧ k < zeroLow r + zeroLen r) := by decide

theorem pattern_eq_formatN : ∀ r ∈ opcodeTable, r.pattern = formatN (opField r.pattern) := by decide

theorem zeroField_below_opcode : ∀ r ∈ opcodeTable, zeroLow r + zeroLen r ≤ 28 := by decide

theorem extract_eq_zero_iff (cw : Word) (lo len : Nat) :
    cw.extractLsb' lo len = 0#len ↔ ∀ k, lo ≤ k → k < lo + len → cw.getLsbD k = false := by
  constructor
  · intro h k hlo hhi
    have hbit := congrArg (fun w => w.getLsbD (k - lo)) h
    have hk : k - lo < len := by omega
    simpa [BitVec.getLsbD_extractLsb', hk, Nat.add_sub_cancel' hlo] using hbit
  · intro h
    apply BitVec.eq_of_getLsbD_eq
    intro k hk
    simp [BitVec.getLsbD_extractLsb', h (lo + k) (by omega) (by omega)]

theorem opField_eq_iff (cw : Word) (op : BitVec 4) :
    opField cw = op ↔ ∀ k, 28 ≤ k → k < 32 → cw.getLsbD k = op.getLsbD (k - 28) := by
  constructor
  · rintro rfl k hlo hhi
    have hk : k - 28 < 4 := by omega
    simp [opField, hk, Nat.add_sub_cancel' hlo]
  · intro h
    apply BitVec.eq_of_getLsbD_eq
    intro k hk
    simp [opField, hk, h (28 + k) (by omega) (by omega)]

/-- A word has the fixed bits of a row exactly when it has the row's opcode and its must-be-zero field is zero
(30_encoding.md R81 to R86). -/
theorem row_iff_fields {r : Row} (hr : r ∈ opcodeTable) (cw : Word) :
    cw &&& r.mask = r.pattern ↔
      opField cw = opField r.pattern ∧ cw.extractLsb' (zeroLow r) (zeroLen r) = 0#(zeroLen r) := by
  have hbelow := zeroField_below_opcode r hr
  have hpattern := pattern_eq_formatN r hr
  generalize opField r.pattern = op at hpattern ⊢
  rw [opField_eq_iff, extract_eq_zero_iff, hpattern]
  constructor
  · intro h
    have hbit (k : Nat) (hk : k < 32) :
        (cw.getLsbD k && decide (28 ≤ k ∨ zeroLow r ≤ k ∧ k < zeroLow r + zeroLen r)) =
          if k < 28 then false else op.getLsbD (k - 28) := by
      rw [← mask_bit r hr k hk, ← BitVec.getLsbD_and, h, formatN_bit]
    refine ⟨fun k hlo hhi => ?_, fun k hlo hhi => ?_⟩
    · simpa [hlo, Nat.not_lt.mpr hlo] using hbit k hhi
    · have hk : k < 28 := by omega
      simpa [hlo, hhi, hk] using hbit k (by omega)
  · rintro ⟨hop, hzero⟩
    apply BitVec.eq_of_getLsbD_eq
    intro k hk
    rw [BitVec.getLsbD_and, mask_bit r hr k hk, formatN_bit]
    by_cases h28 : k < 28
    · by_cases hz : zeroLow r ≤ k ∧ k < zeroLow r + zeroLen r
      · simp [h28, hzero k hz.1 hz.2]
      · simp [h28, hz]
    · simp [h28, Nat.not_lt.mp h28, hop k (Nat.not_lt.mp h28) hk]

/-! #### The operand fields of the formats, read back -/

@[simp] theorem regOfNum_regNum (reg : Reg) : regOfNum (regNum reg) = reg := by cases reg <;> rfl

@[simp] theorem regNum_regOfNum : ∀ n : BitVec 4, regNum (regOfNum n) = n := by decide

@[simp] theorem smpField_formatS (op : BitVec 4) (smp : Sample) : smpField (formatS op smp) = smp := by
  apply BitVec.eq_of_getLsbD_eq
  intro k hk
  simp [smpField, formatS_bit, hk]

theorem idxField_formatI (op : BitVec 4) (v : Bool) {idx : Nat} (h : indexFits idx = true) :
    idxField (formatI op v idx) = idx := by
  have hidx : idx < 2 ^ 16 := by simpa [indexFits] using h
  have hfield : (formatI op v idx).extractLsb' 0 16 = BitVec.ofNat 16 idx := by
    apply BitVec.eq_of_getLsbD_eq
    intro k hk
    rw [BitVec.getLsbD_extractLsb', formatI_bit, BitVec.getLsbD_ofNat]
    simp [hk]
  rw [idxField, hfield, BitVec.toNat_ofNat, Nat.mod_eq_of_lt hidx]

@[simp] theorem vField_formatI (op : BitVec 4) (v : Bool) (idx : Nat) : vField (formatI op v idx) = v := by
  rw [vField, formatI_bit]
  rfl

@[simp] theorem regField_formatR (op : BitVec 4) (reg : Reg) (imm : BitVec 24) :
    regField (formatR op reg imm) = reg := by
  have hfield : (formatR op reg imm).extractLsb' 24 4 = regNum reg := by
    apply BitVec.eq_of_getLsbD_eq
    intro k hk
    have h28 : 24 + k < 28 := by omega
    simp [formatR_bit, hk, h28]
  rw [regField, hfield, regOfNum_regNum]

@[simp] theorem immField_formatR (op : BitVec 4) (reg : Reg) (imm : BitVec 24) :
    immField (formatR op reg imm) = imm := by
  apply BitVec.eq_of_getLsbD_eq
  intro k hk
  simp [immField, formatR_bit, hk]

/-! #### A word put together again from its fields -/

section
variable {cw : Word} {op : BitVec 4}

theorem formatN_of_fields (hop : opField cw = op) (h : cw.extractLsb' 0 28 = 0#28) : formatN op = cw := by
  rw [opField_eq_iff] at hop
  rw [extract_eq_zero_iff] at h
  apply BitVec.eq_of_getLsbD_eq
  intro k hk
  rw [formatN_bit]
  split_ifs with h28
  · exact (h k (by omega) (by omega)).symm
  · exact (hop k (by omega) hk).symm

theorem formatS_of_fields (hop : opField cw = op) (h : cw.extractLsb' 16 12 = 0#12) :
    formatS op (smpField cw) = cw := by
  rw [opField_eq_iff] at hop
  rw [extract_eq_zero_iff] at h
  apply BitVec.eq_of_getLsbD_eq
  intro k hk
  rw [formatS_bit]
  split_ifs with h16 h28
  · simp [smpField, h16]
  · exact (h k (by omega) (by omega)).symm
  · exact (hop k (by omega) hk).symm

theorem idxField_bit (cw : Word) {k : Nat} (hk : k < 16) : (idxField cw).testBit k = cw.getLsbD k := by
  rw [idxField, BitVec.testBit_toNat, BitVec.getLsbD_extractLsb']
  simp [hk]

theorem indexFits_idxField (cw : Word) : indexFits (idxField cw) = true :=
  decide_eq_true (cw.extractLsb' 0 16).isLt

theorem formatI_of_fields (hop : opField cw = op) (h : cw.extractLsb' 17 11 = 0#11) :
    formatI op (vField cw) (idxField cw) = cw := by
  rw [opField_eq_iff] at hop
  rw [extract_eq_zero_iff] at h
  apply BitVec.eq_of_getLsbD_eq
  intro k hk
  rw [formatI_bit]
  split_ifs with h16 h17 h28
  · exact idxField_bit cw h16
  · obtain rfl : k = 16 := by omega
    rfl
  · exact (h k (by omega) (by omega)).symm
  · exact (hop k (by omega) hk).symm

theorem formatR_of_fields (hop : opField cw = op) : formatR op (regField cw) (immField cw) = cw := by
  rw [opField_eq_iff] at hop
  apply BitVec.eq_of_getLsbD_eq
  intro k hk
  rw [formatR_bit, regField, regNum_regOfNum]
  split_ifs with h24 h28
  · simp [immField, h24]
  · have hk4 : k - 24 < 4 := by omega
    simp [hk4, Nat.add_sub_cancel' (Nat.not_lt.mp h24)]
  · exact (hop k (by omega) hk).symm

/-- Format I without `v` has bit 16 among its must-be-zero bits (30_encoding.md R84, R86). -/
theorem zeroField_split (cw : Word) :
    cw.extractLsb' 16 12 = 0#12 ↔ cw.extractLsb' 17 11 = 0#11 ∧ cw.getLsbD 16 = false := by
  rw [extract_eq_zero_iff, extract_eq_zero_iff]
  constructor
  · exact fun h => ⟨fun k hlo hhi => h k (by omega) (by omega), h 16 (by omega) (by omega)⟩
  · rintro ⟨hhigh, hv⟩ k hlo hhi
    rcases Nat.eq_or_lt_of_le hlo with rfl | hlt
    · exact hv
    · exact hhigh k hlt (by omega)

theorem formatI_of_index (hop : opField cw = op) (h : cw.extractLsb' 16 12 = 0#12) :
    formatI op false (idxField cw) = cw := by
  obtain ⟨hzero, hv⟩ := (zeroField_split cw).mp h
  have hword := formatI_of_fields hop hzero
  rwa [vField, hv] at hword

end

/-! #### Rows, operands and commands -/

theorem rowOf_mem_opcodeTable (i : Instr) : rowOf i ∈ opcodeTable := by cases i <;> simp [rowOf, opcodeTable]

/-- The word of a well-formed command has the fixed bits of the command's row (30_encoding.md R86). -/
theorem row_of_encode {i : Instr} (hwf : wellFormed i = true) : encode i &&& (rowOf i).mask = (rowOf i).pattern := by
  cases i with
  | nop => exact Laws.EncodeFits.nop hwf
  | wrst => exact Laws.EncodeFits.wrst hwf
  | zc smp => exact Laws.EncodeFits.zc smp hwf
  | push smp => exact Laws.EncodeFits.push smp hwf
  | bget idx => exact Laws.EncodeFits.bget idx hwf
  | bset idx v => exact Laws.EncodeFits.bset idx v hwf
  | acorr idx => exact Laws.EncodeFits.acorr idx hwf
  | tget idx => exact Laws.EncodeFits.tget idx hwf
  | hcorr => exact Laws.EncodeFits.hcorr hwf
  | refine => exact Laws.EncodeFits.refine hwf
  | run => exact Laws.EncodeFits.run hwf
  | rdr reg => exact Laws.EncodeFits.rdr reg hwf
  | ldr reg imm => exact Laws.EncodeFits.ldr reg imm hwf
  | wget idx => exact Laws.EncodeFits.wget idx hwf

theorem select_of_row {r : Row} {cw : Word} {i j : Instr} (h : cw &&& r.mask = r.pattern) (hij : i = j) :
    select r cw i = .ok j :=
  hij ▸ if_pos (beq_iff_eq.mpr h)

theorem select_eq_ok {r : Row} {cw : Word} {i j : Instr} (h : select r cw i = .ok j) :
    cw &&& r.mask = r.pattern ∧ i = j := by
  unfold select at h
  split at h
  · next hfit => exact ⟨beq_iff_eq.mp hfit, Except.ok.inj h⟩
  · cases h

/-- The operand fields of a word hold the operands of a command (30_encoding.md R87). -/
def HoldsOperands (cw : Word) : Instr → Prop
  | .zc smp => smpField cw = smp
  | .push smp => smpField cw = smp
  | .bget idx => idxField cw = idx
  | .bset idx v => idxField cw = idx ∧ vField cw = v
  | .acorr idx => idxField cw = idx
  | .tget idx => idxField cw = idx
  | .wget idx => idxField cw = idx
  | .rdr reg => regField cw = reg
  | .ldr reg imm => regField cw = reg ∧ immField cw = imm
  | .nop | .wrst | .hcorr | .refine | .run => True

theorem encode_holdsOperands {i : Instr} (hwf : wellFormed i = true) : HoldsOperands (encode i) i := by
  cases i with
  | zc smp => exact smpField_formatS _ smp
  | push smp => exact smpField_formatS _ smp
  | bget idx => exact idxField_formatI _ _ hwf
  | bset idx v => exact ⟨idxField_formatI _ _ hwf, vField_formatI _ v idx⟩
  | acorr idx => exact idxField_formatI _ _ hwf
  | tget idx => exact idxField_formatI _ _ hwf
  | wget idx => exact idxField_formatI _ _ hwf
  | rdr reg => exact regField_formatR _ reg _
  | ldr reg imm => exact ⟨regField_formatR _ reg imm, immField_formatR _ reg imm⟩
  | nop | wrst | hcorr | refine | run => trivial

/-- A word with the fixed bits of a command's row and its operands decodes to the command (30_encoding.md R88). -/
theorem decode_of_row {cw : Word} {i : Instr} (hrow : cw &&& (rowOf i).mask = (rowOf i).pattern)
    (hops : HoldsOperands cw i) : decode cw = .ok i := by
  obtain ⟨hop, -⟩ := (row_iff_fields (rowOf_mem_opcodeTable i) cw).mp hrow
  unfold decode
  rw [hop]
  cases i
  all_goals dsimp only [rowOf]
  case zc smp => exact select_of_row hrow (congrArg Instr.zc hops)
  case push smp => exact select_of_row hrow (congrArg Instr.push hops)
  case bget idx => exact select_of_row hrow (congrArg Instr.bget hops)
  case bset idx v => exact select_of_row hrow (congrArg₂ Instr.bset hops.1 hops.2)
  case acorr idx => exact select_of_row hrow (congrArg Instr.acorr hops)
  case tget idx => exact select_of_row hrow (congrArg Instr.tget hops)
  case wget idx => exact select_of_row hrow (congrArg Instr.wget hops)
  case rdr reg => exact select_of_row hrow (congrArg Instr.rdr hops)
  case ldr reg imm => exact select_of_row hrow (congrArg₂ Instr.ldr hops.1 hops.2)
  all_goals exact select_of_row hrow rfl

/-- Settles O1: the word has the fixed bits of the command's row (`row_of_encode`) and its operands
(`encode_holdsOperands`), and such a word decodes to the command. -/
theorem decodeOfEncode : Obligations.DecodeOfEncode := fun _ hwf =>
  decode_of_row (row_of_encode hwf) (encode_holdsOperands hwf)

/-- A word that decodes has the fixed bits of its command's row (30_encoding.md R86). -/
theorem row_of_decode {cw : Word} {i : Instr} (h : decode cw = .ok i) : cw &&& (rowOf i).mask = (rowOf i).pattern := by
  unfold decode at h
  split at h
  case h_15 => cases h
  all_goals
    obtain ⟨hrow, rfl⟩ := select_eq_ok h
    exact hrow

/-- A word with the fixed bits of a row is the word of a command of that row, whose operands are the word's fields
(30_encoding.md R86, R88). -/
theorem exists_encode_of_row {r : Row} (hr : r ∈ opcodeTable) {cw : Word} (h : cw &&& r.mask = r.pattern) :
    ∃ i, wellFormed i = true ∧ rowOf i = r ∧ encode i = cw := by
  obtain ⟨hop, hzero⟩ := (row_iff_fields hr cw).mp h
  have hidx := indexFits_idxField cw
  simp only [opcodeTable, List.mem_cons, List.not_mem_nil, or_false] at hr
  rcases hr with rfl | rfl | rfl | rfl | rfl | rfl | rfl | rfl | rfl | rfl | rfl | rfl | rfl | rfl
  · exact ⟨.nop, rfl, rfl, formatN_of_fields hop hzero⟩
  · exact ⟨.wrst, rfl, rfl, formatN_of_fields hop hzero⟩
  · exact ⟨.zc (smpField cw), rfl, rfl, formatS_of_fields hop hzero⟩
  · exact ⟨.push (smpField cw), rfl, rfl, formatS_of_fields hop hzero⟩
  · exact ⟨.bget (idxField cw), hidx, rfl, formatI_of_index hop hzero⟩
  · exact ⟨.bset (idxField cw) (vField cw), hidx, rfl, formatI_of_fields hop hzero⟩
  · exact ⟨.acorr (idxField cw), hidx, rfl, formatI_of_index hop hzero⟩
  · exact ⟨.tget (idxField cw), hidx, rfl, formatI_of_index hop hzero⟩
  · exact ⟨.hcorr, rfl, rfl, formatN_of_fields hop hzero⟩
  · exact ⟨.refine, rfl, rfl, formatN_of_fields hop hzero⟩
  · exact ⟨.run, rfl, rfl, formatN_of_fields hop hzero⟩
  · have himm : immField cw = 0#24 := hzero
    have hword := formatR_of_fields hop
    rw [himm] at hword
    exact ⟨.rdr (regField cw), rfl, rfl, hword⟩
  · exact ⟨.ldr (regField cw) (immField cw), rfl, rfl, formatR_of_fields hop⟩
  · exact ⟨.wget (idxField cw), hidx, rfl, formatI_of_index hop hzero⟩

theorem exists_decode_of_row {r : Row} (hr : r ∈ opcodeTable) {cw : Word} (h : cw &&& r.mask = r.pattern) :
    ∃ i, decode cw = .ok i ∧ rowOf i = r := by
  obtain ⟨i, hwf, hrow, rfl⟩ := exists_encode_of_row hr h
  exact ⟨i, decodeOfEncode i hwf, hrow⟩

/-- Settles O2: the word is the word of some well-formed command (`exists_encode_of_row`), which decodes to that command
only (`decodeOfEncode`). -/
theorem encodeOfDecode : Obligations.EncodeOfDecode := by
  intro cw i h
  obtain ⟨j, hwf, -, rfl⟩ := exists_encode_of_row (rowOf_mem_opcodeTable i) (row_of_decode h)
  obtain rfl : j = i := Except.ok.inj ((decodeOfEncode j hwf).symm.trans h)
  exact ⟨rfl, hwf⟩

/-- Settles O3: a word with the fixed bits of a row decodes to a command of that row and only then, so two rows that
share a word are the row of one command. -/
theorem wordSelectsCommandOfItsRow : Obligations.WordSelectsCommandOfItsRow := by
  refine ⟨rfl, fun cw r r' hr hr' h h' => ?_, fun cw r hr => ⟨exists_decode_of_row hr, ?_⟩, fun cw hnone => ?_⟩
  · obtain ⟨i, hi, rfl⟩ := exists_decode_of_row hr h
    obtain ⟨j, hj, rfl⟩ := exists_decode_of_row hr' h'
    rw [Except.ok.inj (hi.symm.trans hj)]
  · rintro ⟨i, hi, rfl⟩
    exact row_of_decode hi
  · cases hd : decode cw with
    | error e => exact ⟨e, rfl⟩
    | ok i => exact absurd (row_of_decode hd) (hnone _ (rowOf_mem_opcodeTable i))

/-! #### Illegal words (30_encoding.md R89) -/

/-- A word that is no command (30_encoding.md R89). -/
def IsIllegal (cw : Word) : Prop := ∃ e, decode cw = .error e

theorem row_unique_of_opcode : ∀ r ∈ opcodeTable, ∀ r' ∈ opcodeTable,
    opField r.pattern = opField r'.pattern → r = r' := by decide

section
variable {cw : Word}

/-- Among the words with the opcode of a row, the illegal ones are those whose must-be-zero field is not zero. -/
theorem isIllegal_iff_zeroField {r : Row} (hr : r ∈ opcodeTable) (hop : opField cw = opField r.pattern) :
    IsIllegal cw ↔ cw.extractLsb' (zeroLow r) (zeroLen r) ≠ 0#(zeroLen r) := by
  constructor
  · rintro ⟨e, he⟩ hzero
    obtain ⟨i, hi, -⟩ := exists_decode_of_row hr ((row_iff_fields hr cw).mpr ⟨hop, hzero⟩)
    cases he.symm.trans hi
  · intro hzero
    cases hd : decode cw with
    | error e => exact ⟨e, hd⟩
    | ok i =>
      have hmem := rowOf_mem_opcodeTable i
      obtain ⟨hop', hzero'⟩ := (row_iff_fields hmem cw).mp (row_of_decode hd)
      obtain rfl := row_unique_of_opcode r hr (rowOf i) hmem (hop.symm.trans hop')
      exact absurd hzero' hzero

theorem isIllegal_of_reserved (h : opField cw = 0xE#4 ∨ opField cw = 0xF#4) : IsIllegal cw := by
  refine ⟨.reservedOpcode, ?_⟩
  unfold decode
  rcases h with h | h <;> rw [h] <;> rfl

theorem isIllegal_formatN_iff (h : opField cw ∈ [0x0#4, 0x1#4, 0x8#4, 0x9#4, 0xA#4]) :
    IsIllegal cw ↔ cw.extractLsb' 0 28 ≠ 0#28 := by
  simp only [List.mem_cons, List.not_mem_nil, or_false] at h
  rcases h with h | h | h | h | h
  · exact isIllegal_iff_zeroField (r := rowNop) (by decide) h
  · exact isIllegal_iff_zeroField (r := rowWrst) (by decide) h
  · exact isIllegal_iff_zeroField (r := rowHcorr) (by decide) h
  · exact isIllegal_iff_zeroField (r := rowRefine) (by decide) h
  · exact isIllegal_iff_zeroField (r := rowRun) (by decide) h

theorem isIllegal_formatS_iff (h : opField cw ∈ [0x2#4, 0x3#4]) : IsIllegal cw ↔ cw.extractLsb' 16 12 ≠ 0#12 := by
  simp only [List.mem_cons, List.not_mem_nil, or_false] at h
  rcases h with h | h
  · exact isIllegal_iff_zeroField (r := rowZc) (by decide) h
  · exact isIllegal_iff_zeroField (r := rowPush) (by decide) h

theorem isIllegal_formatI_iff (h : opField cw ∈ [0x4#4, 0x6#4, 0x7#4, 0xD#4]) :
    IsIllegal cw ↔ cw.extractLsb' 17 11 ≠ 0#11 ∨ cw.getLsbD 16 = true := by
  have hsplit : cw.extractLsb' 16 12 ≠ 0#12 ↔ cw.extractLsb' 17 11 ≠ 0#11 ∨ cw.getLsbD 16 = true := by
    rw [Ne, zeroField_split, not_and_or, Bool.not_eq_false]
  rw [← hsplit]
  simp only [List.mem_cons, List.not_mem_nil, or_false] at h
  rcases h with h | h | h | h
  · exact isIllegal_iff_zeroField (r := rowBget) (by decide) h
  · exact isIllegal_iff_zeroField (r := rowAcorr) (by decide) h
  · exact isIllegal_iff_zeroField (r := rowTget) (by decide) h
  · exact isIllegal_iff_zeroField (r := rowWget) (by decide) h

theorem isIllegal_bset_iff (h : opField cw = 0x5#4) : IsIllegal cw ↔ cw.extractLsb' 17 11 ≠ 0#11 :=
  isIllegal_iff_zeroField (r := rowBset) (by decide) h

theorem isIllegal_rdr_iff (h : opField cw = 0xB#4) : IsIllegal cw ↔ cw.extractLsb' 0 24 ≠ 0#24 :=
  isIllegal_iff_zeroField (r := rowRdr) (by decide) h

/-- `LDR` has no must-be-zero field (30_encoding.md R85). -/
theorem not_isIllegal_ldr (h : opField cw = 0xC#4) : ¬ IsIllegal cw := fun hill =>
  (isIllegal_iff_zeroField (r := rowLdr) (by decide) h).mp hill (BitVec.eq_of_zero_length rfl)

end

/-- The opcodes by which fields are must-be-zero (30_encoding.md R86). -/
theorem opcode_cases : ∀ op : BitVec 4,
    op = 0xE#4 ∨ op = 0xF#4 ∨ op ∈ [0x0#4, 0x1#4, 0x8#4, 0x9#4, 0xA#4] ∨ op ∈ [0x2#4, 0x3#4] ∨
      op ∈ [0x4#4, 0x6#4, 0x7#4, 0xD#4] ∨ op = 0x5#4 ∨ op = 0xB#4 ∨ op = 0xC#4 := by decide

theorem index_opcode_cases : ∀ op : BitVec 4,
    op ∈ [0x4#4, 0x5#4, 0x6#4, 0x7#4, 0xD#4] ↔ op = 0x5#4 ∨ op ∈ [0x4#4, 0x6#4, 0x7#4, 0xD#4] := by decide

/-- Settles O4: the opcodes fall into groups with the same must-be-zero field, in each of which a word is illegal
exactly when that field is not zero; and a step on an illegal word is `raise`. -/
theorem illegalWordsFault : Obligations.IllegalWordsFault := by
  refine ⟨fun cw => ⟨fun hill => ?_, fun hfields => ?_⟩, ?_⟩
  · rcases opcode_cases (opField cw) with h | h | h | h | h | h | h | h
    · exact .inl h
    · exact .inr (.inl h)
    · exact .inr (.inr (.inl ⟨h, (isIllegal_formatN_iff h).mp hill⟩))
    · exact .inr (.inr (.inr (.inl ⟨h, (isIllegal_formatS_iff h).mp hill⟩)))
    · have hindex := (index_opcode_cases _).mpr (.inr h)
      rcases (isIllegal_formatI_iff h).mp hill with hzero | hv
      · exact .inr (.inr (.inr (.inr (.inl ⟨hindex, hzero⟩))))
      · exact .inr (.inr (.inr (.inr (.inr (.inl ⟨h, hv⟩)))))
    · have hindex := (index_opcode_cases _).mpr (.inl h)
      exact .inr (.inr (.inr (.inr (.inl ⟨hindex, (isIllegal_bset_iff h).mp hill⟩))))
    · exact .inr (.inr (.inr (.inr (.inr (.inr ⟨h, (isIllegal_rdr_iff h).mp hill⟩)))))
    · exact absurd hill (not_isIllegal_ldr h)
  · rcases hfields with h | h | ⟨h, hzero⟩ | ⟨h, hzero⟩ | ⟨h, hzero⟩ | ⟨h, hv⟩ | ⟨h, hzero⟩
    · exact isIllegal_of_reserved (.inl h)
    · exact isIllegal_of_reserved (.inr h)
    · exact (isIllegal_formatN_iff h).mpr hzero
    · exact (isIllegal_formatS_iff h).mpr hzero
    · rcases (index_opcode_cases _).mp h with h | h
      · exact (isIllegal_bset_iff h).mpr hzero
      · exact (isIllegal_formatI_iff h).mpr (.inl hzero)
    · exact (isIllegal_formatI_iff h).mpr (.inr hv)
    · exact (isIllegal_rdr_iff h).mpr hzero
  · rintro s cw rest hp ⟨e, he⟩
    rw [step_of_illegal hp he]
    exact raised_faultsWith .illegalCmd cw _

/-! #### The words of the spec, and the step that runs one -/

/-- Settles O5: each word is closed and `decode` evaluates it. -/
theorem wordsOfTheSpecDecode : Obligations.WordsOfTheSpecDecode := by
  refine ⟨?_, ?_, ?_, ?_, ?_, ?_, ?_, ?_, ?_, ?_, ?_⟩ <;> decide

theorem wordOfBits_toNat (cw : Word) : wordOfBits 32 cw.toNat = cw := by
  simp [wordOfBits, Nat.mod_eq_of_lt cw.isLt]

/-- Settles O6: a step on a presented word is `step_of_command`, and `withFetchWord` presents the word itself. -/
theorem stepRunsDecodedCommand : Obligations.StepRunsDecodedCommand := by
  refine ⟨fun s cw rest i => step_of_command, fun s cw i hd => ?_⟩
  rw [State.withFetchWord, wordOfBits_toNat]
  exact step_of_command rfl hd

end Sys2Proof.Machine

namespace Sys2Proof.Machine

/-! ### The hysteresis detector (40_zerocross.md)

`zcNext` is read off its two comparisons once; `ZC` and a list of `ZC`s are then statements about the latch alone. -/

/-! #### One sample (40_zerocross.md R102) -/

/-- The lower threshold as the integer bound R102 works out: -3277 is the largest sample value below -1/10. -/
theorem belowBand_iff (smp : Sample) : belowBand smp = true ↔ smp.toInt ≤ -3277 := by
  rw [belowBand, decide_eq_true_eq, zcLowDen, zcLowNum, sampleScale, raw]
  omega

theorem aboveBand_iff (smp : Sample) : aboveBand smp = true ↔ 1 ≤ smp.toInt := by
  rw [aboveBand, decide_eq_true_eq, zcHighDen, zcHighNum, sampleScale, raw]
  omega

theorem zcNext_of_below (l : Bool) {smp : Sample} (h : smp.toInt ≤ -3277) : zcNext l smp = false :=
  if_pos ((belowBand_iff smp).mpr h)

theorem zcNext_of_above (l : Bool) {smp : Sample} (h : 1 ≤ smp.toInt) : zcNext l smp = true := by
  have hbelow : ¬ belowBand smp = true := by rw [belowBand_iff]; omega
  rw [zcNext, if_neg hbelow, if_pos ((aboveBand_iff smp).mpr h)]

/-- Once high, high until a sample below the band: `zcNext_moves` names the only samples that clear the latch. -/
theorem zcNext_high {smp : Sample} (h : -3276 ≤ smp.toInt) : zcNext true smp = true :=
  Bool.eq_true_of_not_eq_false fun hlow => by
    have := (zcNext_moves true smp).clears rfl hlow
    omega

/-- Once low, low until a sample above the band: `zcNext_moves` names the only samples that set the latch. -/
theorem zcNext_low {smp : Sample} (h : smp.toInt ≤ 0) : zcNext false smp = false :=
  Bool.eq_false_of_not_eq_true fun hhigh => by
    have := (zcNext_moves false smp).sets rfl hhigh
    omega

theorem zcNext_of_inBand (l : Bool) {smp : Sample} (hlow : -3276 ≤ smp.toInt) (hhigh : smp.toInt ≤ 0) :
    zcNext l smp = l := by
  cases l with
  | false => exact zcNext_low hhigh
  | true => exact zcNext_high hlow

/-! #### The command (40_zerocross.md R101) -/

theorem exec_zc (smp : Sample) (s : State) :
    exec (.zc smp) s = done (bitWord (zcNext s.latched smp)) (setLatched (zcNext s.latched smp) s) := rfl

/-- Settles O17: the three ranges are the three lemmas `zcNext_of_below`, `zcNext_of_above` and `zcNext_of_inBand`. -/
theorem zcMovesLatch : Obligations.ZcMovesLatch := by
  refine ⟨fun _ => blockReset_latched, fun smp s => ⟨fun h => ?below, fun h => ?above, fun hlow hhigh => ?inBand⟩⟩
  case below => rw [exec_zc, zcNext_of_below _ h]; rfl
  case above => rw [exec_zc, zcNext_of_above _ h]; rfl
  case inBand => rw [exec_zc, zcNext_of_inBand _ hlow hhigh]; rfl

/-! #### A sequence of samples (40_zerocross.md R103) -/

/-- A latch position that no sample of the sequence moves is the position after the sequence. -/
theorem foldl_zcNext_of_kept {l : Bool} {smps : List Sample} (h : ∀ x ∈ smps, zcNext l x = l) :
    smps.foldl zcNext l = l := by
  induction smps with
  | nil => rfl
  | cons x xs ih =>
    obtain ⟨hx, hxs⟩ := List.forall_mem_cons.mp h
    rw [List.foldl_cons, hx, ih hxs]

/-- `ZC` never faults, so a sequence of `ZC`s folds `zcNext` over its samples. -/
theorem issue_zc (smps : List Sample) (s : State) :
    ∃ t, issue (smps.map .zc) s = .next t ∧ t.latched = smps.foldl zcNext s.latched := by
  induction smps generalizing s with
  | nil => exact ⟨s, rfl, rfl⟩
  | cons x xs ih => exact ih (respond (.ok (bitWord (zcNext s.latched x))) (setLatched (zcNext s.latched x) s))

/-- Settles O18: the latch is the fold of `zcNext` (`issue_zc`), and in each clause no sample of the sequence moves it
(`foldl_zcNext_of_kept`). -/
theorem detectorHasHysteresis : Obligations.DetectorHasHysteresis := by
  intro smps s
  obtain ⟨t, hissue, hlatch⟩ := issue_zc smps s
  refine ⟨t, hissue, fun hs h => ?high, fun hs h => ?low, fun h => ?inBand⟩
  case high => rw [hlatch, hs]; exact foldl_zcNext_of_kept fun x hx => zcNext_high (h x hx)
  case low => rw [hlatch, hs]; exact foldl_zcNext_of_kept fun x hx => zcNext_low (h x hx)
  case inBand =>
    rw [hlatch]
    exact foldl_zcNext_of_kept fun x hx => zcNext_of_inBand s.latched (h x hx).1 (h x hx).2

end Sys2Proof.Machine

namespace Sys2Proof.Machine

/-! ### The packed buffer and the autocorrelation engine (41_bitstream.md)

A stream bit is one bit of one word (`getLsbD_bitsWord`). From this follow the bit and word commands, and that the
word-level sum of R121 is the bit-level count of R120 (`wordCountAt_eq_bitCount`), which turns what the engine computes
into the words of the statements. -/

/-! #### Bit and word access (41_bitstream.md R111 to R115) -/

/-- Bit `o` of word `a` is stream bit `32 a + o` (20_memory.md R64). -/
theorem getLsbD_bitsWord (s : State) (a : Nat) {o : Nat} (ho : o < 32) :
    (bitsWord s a).getLsbD o = streamBit s (32 * a + o) := by
  have hword : (32 * a + o) / 32 = a := by omega
  have hoffset : (32 * a + o) % 32 = o := by omega
  rw [streamBit_eq_bitsWord, hword, hoffset]

theorem Inv.rising_bits {s : State} (h : Inv s) : Rising s.mem.bits := by
  obtain ⟨⟨hrise, -⟩, -⟩ := h.memory
  exact hrise

/-- The state after a write of one stream bit: the word around it is read, changed in one bit and stored. -/
def storeBit (s : State) (i : Nat) (v : Bool) : State :=
  setBits (putOrDrop s.mem.bits (i / 32) (withBit (bitsWord s (i / 32)) (i % 32) v)) s

theorem writeBit_eq_storeBit {s : State} (hp : paramsOk s.cfg) {i : Nat} (hi : i < windowSize s.cfg) (v : Bool) :
    writeBit s i v = .ok (storeBit s i v) := writeBit_of_lt hp hi v

theorem streamBit_storeBit {s : State} (h : Rising s.mem.bits) (i j : Nat) (v : Bool) :
    streamBit (storeBit s i v) j = if j = i then v else streamBit s j := streamBit_setBits h i j v

theorem readBits_storeBit_same {s : State} (h : Rising s.mem.bits) {i : Nat} (hi : i / 32 < wordCount s.cfg)
    (v : Bool) :
    readBits (storeBit s i v) (i / 32) = .ok (withBit (bitsWord s (i / 32)) (i % 32) v) := by
  rw [storeBit, readBits_setBits h, if_pos hi, if_pos rfl]

theorem readBits_storeBit_other {s : State} (h : Rising s.mem.bits) {i a : Nat} (ha : a ≠ i / 32) (v : Bool) :
    readBits (storeBit s i v) a = readBits s a := by
  rw [storeBit, readBits_setBits h, if_neg ha, readBits]

/-- `BGET` inside the window (41_bitstream.md R111). -/
theorem exec_bget_of_lt {s : State} (hp : paramsOk s.cfg) {idx : Nat} (h : idx < windowSize s.cfg) :
    exec (.bget idx) s = .next (respond (.ok (bitWord (streamBit s idx))) s) := by
  have hin : ¬ windowSize s.cfg ≤ idx := Nat.not_le.mpr h
  rw [exec, execBget, if_neg hin, readBit_of_lt hp h, ok_bind, pure_eq_ok, finish_ok]

/-- `BSET` inside the window (41_bitstream.md R113). -/
theorem exec_bset_of_lt {s : State} (hp : paramsOk s.cfg) {idx : Nat} (h : idx < windowSize s.cfg) (v : Bool) :
    exec (.bset idx v) s = .next (respond (.ok 0#32) (storeBit s idx v)) := by
  have hin : ¬ windowSize s.cfg ≤ idx := Nat.not_le.mpr h
  rw [exec, execBset, if_neg hin, writeBit_eq_storeBit hp h, ok_bind, pure_eq_ok, finish_ok]

/-- `WGET` inside the buffer (41_bitstream.md R115). -/
theorem exec_wget_of_lt {s : State} {idx : Nat} (h : idx < wordCount s.cfg) :
    exec (.wget idx) s = .next (respond (.ok (bitsWord s idx)) s) := by
  have hin : ¬ wordCount s.cfg ≤ idx := Nat.not_le.mpr h
  rw [exec, execWget, if_neg hin, readBits_of_lt h, ok_bind, pure_eq_ok, finish_ok, bitsWord]

/-- Settles O19: inside the window `exec_bget_of_lt`, outside it the command raises `IndexRange`. -/
theorem bgetReadsBit : Obligations.BgetReadsBit := by
  refine fun idx s hp => ⟨fun h => exec_bget_of_lt hp h, fun h => ?_⟩
  rw [exec, execBget, if_pos h]
  exact raised_faultsWith _ _ s

/-- Settles O20: the state after the command is `storeBit`, which replaces one bit of one word (`getLsbD_withBit`) and
reads as before at every other word. -/
theorem bsetWritesOneBit : Obligations.BsetWritesOneBit := by
  refine fun idx v s hinv => ⟨fun h => ?inside, fun h => ?outside⟩
  case inside =>
    have hrise := hinv.rising_bits
    have hword : idx / 32 < wordCount s.cfg := wordOfBit_lt hinv.params h
    exact ⟨_, _, _, exec_bset_of_lt hinv.params h v, rfl, readBits_of_lt hword, readBits_storeBit_same hrise hword v,
      fun o => getLsbD_withBit _ _ o v (Nat.mod_lt _ (by decide)), fun a ha => readBits_storeBit_other hrise ha v,
      readSig_congr rfl rfl, readTable_congr rfl rfl, rfl⟩
  case outside =>
    rw [exec, execBset, if_pos h]
    exact raised_faultsWith _ _ s

/-- Settles O21: `BGET` answers the stream bit (`exec_bget_of_lt`), before and after, and `streamBit_storeBit` says
what every stream bit is after the `BSET`. -/
theorem bitRoundTrip : Obligations.BitRoundTrip := by
  intro i v s hinv hi
  have hrise := hinv.rising_bits
  have hget : ∀ j < windowSize s.cfg, exec (.bget j) (respond (.ok 0#32) (storeBit s i v)) =
      .next (respond (.ok (bitWord (if j = i then v else streamBit s j))) (respond (.ok 0#32) (storeBit s i v))) := by
    intro j hj
    rw [← streamBit_storeBit hrise i j v]
    exact exec_bget_of_lt (s := respond (.ok 0#32) (storeBit s i v)) hinv.params hj
  refine ⟨_, exec_bset_of_lt hinv.params hi v, ⟨_, hget i hi, ?_⟩, fun j hne hj =>
    ⟨_, _, hget j hj, exec_bget_of_lt hinv.params hj, ?_⟩⟩
  · rw [if_pos rfl, respond_rsp, bitWord]
  · rw [if_neg hne, respond_rsp, respond_rsp]

/-- Settles O22: the response is the word, whose bits are stream bits (`getLsbD_bitsWord`). -/
theorem wgetReadsWord : Obligations.WgetReadsWord := by
  refine fun idx s => ⟨fun h => ?inside, fun h => ?outside⟩
  case inside => exact ⟨_, exec_wget_of_lt h, readBits_of_lt h, fun o ho => getLsbD_bitsWord s idx ho⟩
  case outside =>
    rw [exec, execWget, if_pos h]
    exact raised_faultsWith _ _ s

/-! #### The count at one lag (41_bitstream.md R120 to R122) -/

/-- Bit `t` of the shifted word of R121 is the stream bit `pos` places after bit `t` of word `i`: the low part of the
word comes from one word of the buffer, the high part from the next. -/
theorem getLsbD_shiftedWordAt (s : State) (pos i : Nat) {t : Nat} (ht : t < 32) :
    (shiftedWordAt s (pos / 32) (pos % 32) i).getLsbD t = streamBit s (32 * i + t + pos) := by
  unfold shiftedWordAt
  by_cases haligned : pos % 32 = 0
  · have hbit : 32 * (pos / 32 + i) + t = 32 * i + t + pos := by omega
    rw [if_pos haligned, getLsbD_bitsWord s _ ht, hbit]
  rw [if_neg haligned, BitVec.getLsbD_or, BitVec.getLsbD_ushiftRight, BitVec.getLsbD_shiftLeft]
  by_cases hlow : pos % 32 + t < 32
  · have hbit : 32 * (pos / 32 + i) + (pos % 32 + t) = 32 * i + t + pos := by omega
    have hbelow : t < 32 - pos % 32 := by omega
    rw [getLsbD_bitsWord s _ hlow, hbit]
    simp [hbelow]
  · have hbit : 32 * (pos / 32 + i + 1) + (t - (32 - pos % 32)) = 32 * i + t + pos := by omega
    have hreach : ¬ t < 32 - pos % 32 := by omega
    rw [BitVec.getLsbD_of_ge _ _ (Nat.not_lt.mp hlow), getLsbD_bitsWord s _ (by omega), hbit]
    simp [ht, hreach]

/-- Counting in `[0, b n)` is counting in each of the `n` blocks of `b`. -/
theorem countP_range_mul (p : Nat → Bool) (b n : Nat) :
    (List.range (b * n)).countP p =
      ((List.range n).map (fun i => (List.range b).countP (fun t => p (b * i + t)))).sum := by
  induction n with
  | zero => rfl
  | succ n ih => rw [Nat.mul_succ, List.range_add, List.countP_append, ih, List.countP_map, List.sum_range_succ]; rfl

/-- The word-level sum is the bit-level count (41_bitstream.md R122): word `i` counts the positions `32 i + t`. -/
theorem wordCountAt_eq_bitCount (s : State) (pos : Nat) : wordCountAt s pos = bitCount s pos := by
  rw [wordCountAt, bitCount, cmpBits, wordWidth, countP_range_mul]
  refine congrArg List.sum (List.map_congr_left fun i _ => List.countP_congr fun t ht => ?_)
  have ht : t < 32 := List.mem_range.mp ht
  rw [BitVec.getLsbD_xor, getLsbD_bitsWord s i ht, getLsbD_shiftedWordAt s pos i ht]

theorem bitCount_le (s : State) (pos : Nat) : bitCount s pos ≤ cmpBits s.cfg :=
  wordCountAt_eq_bitCount s pos ▸ wordCountAt_le s pos

/-- A count needs 15 bits (41_bitstream.md R127). -/
theorem cmpBits_lt {p : Params} (hp : paramsOk p) : cmpBits p < 2 ^ 15 := by
  have := derived_sizes hp
  omega

theorem bitCount_zero (s : State) : bitCount s 0 = 0 :=
  List.countP_eq_zero.mpr fun n _ => by rw [Nat.add_zero, bne_self_eq_false]; exact Bool.false_ne_true

/-- Settles O24: the engine computes the word-level sum (`countAt_of_lt`), which is the bit-level count. -/
theorem wordLevelCountIsBitLevelCount : Obligations.WordLevelCountIsBitLevelCount := by
  intro s pos hp hpos
  rw [countAt_of_lt hp hpos, wordCountAt_eq_bitCount]

/-- Settles O25: `bitCount_le`, `bitCount_zero`, and the sizes of an admitted build in terms of `HALF_WORD_COUNT`
(`derived_sizes`). -/
theorem countBounds : Obligations.CountBounds := by
  intro s pos hp
  refine ⟨bitCount_le s pos, bitCount_zero s, fun hpos n hn => ?_⟩
  have := derived_sizes hp
  omega

/-! #### The autocorrelation (41_bitstream.md R118, R124) -/

/-- The words of R124 for the result of an autocorrelation from `start`: `maxCount` is the largest count, and `lag` is
the first lag of the smallest. -/
structure LagExtremes (s : State) (start maxCount lag : Nat) : Prop where
  start_le : start ≤ lag
  lag_lt : lag < halfWindow s.cfg
  le_max : ∀ p, start ≤ p → p < halfWindow s.cfg → bitCount s p ≤ maxCount
  max_attained : ∃ p, start ≤ p ∧ p < halfWindow s.cfg ∧ bitCount s p = maxCount
  min_le : ∀ p, start ≤ p → p < halfWindow s.cfg → bitCount s lag ≤ bitCount s p
  min_first : ∀ p, start ≤ p → p < lag → bitCount s lag < bitCount s p

/-- The largest count is a count (`max_attained`), so it fits the 15 bits of one. -/
theorem LagExtremes.max_lt {s : State} {start maxCount lag : Nat} (h : LagExtremes s start maxCount lag)
    (hp : paramsOk s.cfg) : maxCount < 2 ^ 15 := by
  obtain ⟨p, -, -, rfl⟩ := h.max_attained
  exact Nat.lt_of_le_of_lt (bitCount_le s p) (cmpBits_lt hp)

/-- The state after an autocorrelation from `start` with these extremes: the table of the counts, its marks, and the two
registers. -/
def correlated (s : State) (start maxCount lag : Nat) : State :=
  setBestLag (BitVec.ofNat 32 lag) (setMaxCount (BitVec.ofNat 32 maxCount)
    (setTable ((lagsFrom s start).map (fun p => (p, BitVec.ofNat 16 (wordCountAt s p)))) start s))

/-- `autocorrelate_of_lt` in bit-level counts. -/
theorem autocorrelate_eq_correlated {s : State} (hp : paramsOk s.cfg) {start : Nat} (h : start < halfWindow s.cfg) :
    ∃ maxCount lag, autocorrelate start s = .ok (correlated s start maxCount lag, maxCount, lag) ∧
      LagExtremes s start maxCount lag := by
  obtain ⟨maxCount, lag, hrun, hstart, hlag, hbounds, hfirst, hattained, -⟩ := autocorrelate_of_lt hp h
  simp only [wordCountAt_eq_bitCount s] at hbounds hfirst hattained
  exact ⟨maxCount, lag, hrun, hstart, hlag, fun p h1 h2 => (hbounds p h1 h2).2, hattained,
    fun p h1 h2 => (hbounds p h1 h2).1, hfirst⟩

theorem readTable_correlated {s : State} {start maxCount lag p : Nat} (hstart : start ≤ p)
    (hp : p < halfWindow s.cfg) :
    readTable (correlated s start maxCount lag) p = .ok (BitVec.ofNat 16 (bitCount s p)) := by
  refine readTable_eq_ok.mpr ⟨hp, ?_⟩
  rw [← wordCountAt_eq_bitCount]
  exact (lookup_new_table s start p).trans (if_pos ⟨hstart, hp⟩)

/-- Below the start lag the new table holds no value (10_state.md R25). -/
theorem readTable_correlated_below {s : State} {start maxCount lag p : Nat} (hstart : p < start)
    (hp : p < halfWindow s.cfg) :
    readTable (correlated s start maxCount lag) p = .error (.noValue .table p) := by
  have hnone : lookup (correlated s start maxCount lag).mem.table p = none :=
    (lookup_new_table s start p).trans (if_neg fun h => Nat.not_le.mpr hstart h.1)
  have hspace : p < halfWindow (correlated s start maxCount lag).cfg := hp
  rw [readTable, if_pos hspace, hnone]

/-- The response of `ACORR` holds its two numbers side by side (30_encoding.md R92). -/
theorem extremesWord_toNat {maxCount lag : Nat} (hmax : maxCount < 65536) (hlag : lag < 65536) :
    (extremesWord maxCount lag).toNat = maxCount * 65536 + lag := by
  have hshift : (maxCount <<< 16) % 2 ^ 32 = maxCount <<< 16 := by
    rw [Nat.shiftLeft_eq]
    exact Nat.mod_eq_of_lt (by omega)
  rw [extremesWord, BitVec.toNat_or, BitVec.toNat_shiftLeft, BitVec.toNat_ofNat, BitVec.toNat_ofNat,
    Nat.mod_eq_of_lt (show maxCount < 2 ^ 32 by omega), Nat.mod_eq_of_lt (show lag < 2 ^ 32 by omega), hshift,
    ← Nat.shiftLeft_add_eq_or_of_lt hlag, Nat.shiftLeft_eq]

/-- `ACORR` from a start lag below `HALF_WINDOW` (41_bitstream.md R118). -/
theorem exec_acorr_of_lt {s : State} (hp : paramsOk s.cfg) {idx : Nat} (h : idx < halfWindow s.cfg) :
    ∃ maxCount lag, LagExtremes s idx maxCount lag ∧
      exec (.acorr idx) s = .next (respond (.ok (extremesWord maxCount lag)) (correlated s idx maxCount lag)) := by
  obtain ⟨maxCount, lag, hrun, hext⟩ := autocorrelate_eq_correlated hp h
  have hin : ¬ halfWindow s.cfg ≤ idx := Nat.not_le.mpr h
  refine ⟨maxCount, lag, hext, ?_⟩
  rw [exec, execAcorr, if_neg hin, hrun, ok_bind]
  rfl

/-- Settles O26: the state after the command is `correlated` with the extremes of `LagExtremes`; both numbers fit their
16 bits of the response and their registers, so nothing is cut. -/
theorem acorrFillsTable : Obligations.AcorrFillsTable := by
  refine fun idx s hinv => ⟨fun h => ?inside, fun h => ?outside⟩
  case inside =>
    obtain ⟨maxCount, lag, hext, hexec⟩ := exec_acorr_of_lt hinv.params h
    have hsizes := derived_sizes hinv.params
    have hmax : maxCount < 2 ^ 15 := hext.max_lt hinv.params
    have hlag : lag < 2 ^ 15 := by have := hext.lag_lt; omega
    have hmaxReg : (BitVec.ofNat 32 maxCount).toNat = maxCount := Nat.mod_eq_of_lt (by omega)
    have hlagReg : (BitVec.ofNat 32 lag).toNat = lag := Nat.mod_eq_of_lt (by omega)
    refine ⟨_, _, hexec, rfl, ?response,
      fun p h1 h2 => ⟨readTable_correlated h1 h2, Nat.lt_of_le_of_lt (bitCount_le s p) (cmpBits_lt hinv.params)⟩,
      fun p hlt => readTable_correlated_below hlt (Nat.lt_trans hlt h), rfl, rfl, rfl, rfl, ?extremes⟩
    all_goals simp only [respond_maxCount, respond_bestLag, correlated, setBestLag_maxCount, setBestLag_bestLag,
      setMaxCount_maxCount, hmaxReg, hlagReg]
    case response => exact extremesWord_toNat (by omega) (by omega)
    case extremes =>
      exact ⟨hext.le_max, hext.max_attained, hext.start_le, hext.lag_lt, hext.min_le, hext.min_first,
        readBits_congr rfl rfl, readSig_congr rfl rfl, rfl⟩
  case outside =>
    rw [exec, execAcorr, if_pos h]
    exact raised_faultsWith _ _ s

/-! #### One element of the table (41_bitstream.md R128) -/

/-- `TGET` at a lag that holds a count. -/
theorem exec_tget_of_value {s : State} {idx : Nat} {c : Count} (hvalid : s.tblValid = true) (hlo : s.tblLo ≤ idx)
    (hc : readTable s idx = .ok c) : exec (.tget idx) s = .next (respond (.ok (countWord c)) s) := by
  obtain ⟨hidx, -⟩ := readTable_eq_ok.mp hc
  have hin : ¬ halfWindow s.cfg ≤ idx := Nat.not_le.mpr hidx
  have hwritten : ¬ (s.tblValid = false ∨ idx < s.tblLo) := by simp [hvalid, hlo]
  rw [exec, execTget, if_neg hin, if_neg hwritten, hc, ok_bind, pure_eq_ok, finish_ok]

/-- Settles O28: the two checks in the order of R128, and past them the element holds a value by the invariant
(`readTable_of_mem`). -/
theorem tgetReadsCount : Obligations.TgetReadsCount := by
  refine fun idx s hinv => ⟨fun h => ?outside, fun h hun => ?unwritten, fun h hvalid hlo => ?value⟩
  case outside =>
    rw [exec, execTget, if_pos h]
    exact raised_faultsWith _ _ s
  case unwritten =>
    rw [exec, execTget, if_neg (Nat.not_le.mpr h), if_pos hun]
    exact raised_faultsWith _ _ s
  case value =>
    have hc := readTable_of_mem hinv.table hvalid hlo h
    refine ⟨_, hc, ?_⟩
    rw [exec_tget_of_value hvalid hlo hc, countWord, BitVec.ofNat_toNat]
    rfl

end Sys2Proof.Machine

namespace Sys2Proof.Machine

/-! ### The harmonic corrector (42_harmonic.md)

The lags at which the corrector looks lie between the minimum period and the raw lag (`echo_lag_gt_minPeriod`,
`echo_lag_le_rawLag`): a table that starts at or below the minimum period therefore holds a value at each of them
(`readTable_echo`), and no other element matters (`correct_of_reads_eq`). -/

/-! #### The candidates and the lags of their echoes (42_harmonic.md R144) -/

section

variable {minPeriod rawLag d k : Nat}

/-- A divisor below `raw_lag div MIN_PERIOD` gives a candidate of at least the minimum period. -/
theorem minPeriod_le_candidate (hd : 1 ≤ d) (htop : d + 1 ≤ rawLag / minPeriod) : minPeriod ≤ rawLag / d := by
  rw [Nat.le_div_iff_mul_le hd]
  calc minPeriod * d ≤ minPeriod * (rawLag / minPeriod) := Nat.mul_le_mul_left _ (Nat.le_of_succ_le htop)
    _ ≤ rawLag := Nat.mul_div_le _ _

theorem echo_lag_gt_minPeriod (hd : 1 ≤ d) (htop : d + 1 ≤ rawLag / minPeriod) (hk : k ∈ echoOffsets d) :
    minPeriod + 1 ≤ k + rawLag / d := by
  have hcandidate := minPeriod_le_candidate hd htop
  obtain ⟨hk1, -⟩ := (mem_echoOffsets d k).mp hk
  omega

/-- A candidate is at least 1, so the lag is at most `k + 1 ≤ d` candidates, which together do not exceed the raw lag. -/
theorem echo_lag_le_rawLag (hmin : 1 ≤ minPeriod) (hd : 1 ≤ d) (htop : d + 1 ≤ rawLag / minPeriod)
    (hk : k ∈ echoOffsets d) : k + rawLag / d ≤ rawLag := by
  have hcandidate : 1 ≤ rawLag / d := hmin.trans (minPeriod_le_candidate hd htop)
  obtain ⟨-, hkd⟩ := (mem_echoOffsets d k).mp hk
  calc k + rawLag / d ≤ k * (rawLag / d) + rawLag / d := Nat.add_le_add_right (Nat.le_mul_of_pos_right k hcandidate) _
    _ = (k + 1) * (rawLag / d) := (Nat.succ_mul k _).symm
    _ ≤ d * (rawLag / d) := Nat.mul_le_mul_right _ hkd
    _ ≤ rawLag := Nat.mul_div_le _ _

end

/-- Under the preconditions of 42_harmonic.md R143 every echo of a divisor tried holds a value. -/
theorem readTable_echo {s : State} (hinv : Inv s) (hready : correctionReady s = true)
    (hlag : s.bestLag.toNat < halfWindow s.cfg) {d k : Nat} (hd : 1 ≤ d)
    (htop : d + 1 ≤ s.bestLag.toNat / s.cfg.minPeriod) (hk : k ∈ echoOffsets d) :
    ∃ c, readTable s (k + s.bestLag.toNat / d) = .ok c := by
  obtain ⟨-, -, hvalid, hlo⟩ := (correctionReady_iff s).mp hready
  have hge := echo_lag_gt_minPeriod hd htop hk
  have hle := echo_lag_le_rawLag (one_le_minPeriod hinv.params) hd htop hk
  exact ⟨_, readTable_of_mem hinv.table hvalid (by omega) (by omega)⟩

/-! #### The search reads the echoes only -/

theorem echoesStrong_of_reads_eq {s t : State} {maxCount candidate : Nat} (l : List Nat)
    (h : ∀ k ∈ l, readTable t (k + candidate) = readTable s (k + candidate)) :
    echoesStrong t maxCount candidate l = echoesStrong s maxCount candidate l := by
  induction l with
  | nil => rfl
  | cons k l ih =>
    have hhead := h k List.mem_cons_self
    have htail := ih fun j hj => h j (List.mem_cons_of_mem k hj)
    simp only [echoesStrong, hhead, htail]

theorem searchDivisor_of_reads_eq {s t : State} {maxCount rawLag : Nat} (n : Nat)
    (h : ∀ d, 1 ≤ d → d ≤ n → ∀ k ∈ echoOffsets d, readTable t (k + rawLag / d) = readTable s (k + rawLag / d)) :
    searchDivisor t maxCount rawLag n = searchDivisor s maxCount rawLag n := by
  induction n with
  | zero => rfl
  | succ n ih =>
    have hfirst := echoesStrong_of_reads_eq (maxCount := maxCount) _ (h (n + 1) (Nat.succ_pos n) le_rfl)
    have hrest := ih fun d h1 hn => h d h1 (Nat.le_succ_of_le hn)
    simp only [searchDivisor, hfirst, hrest]

/-- The corrected lag depends on the elements from the minimum period plus 1 to the raw lag only. -/
theorem correct_of_reads_eq {s t : State} {maxCount rawLag : Nat} (hp : paramsOk s.cfg) (hcfg : t.cfg = s.cfg)
    (h : ∀ p, s.cfg.minPeriod + 1 ≤ p → p ≤ rawLag → readTable t p = readTable s p) :
    correct t maxCount rawLag = correct s maxCount rawLag := by
  rw [correct, correct, hcfg]
  refine searchDivisor_of_reads_eq _ fun d hd hn k hk => ?_
  have htop : d + 1 ≤ rawLag / s.cfg.minPeriod := by omega
  exact h _ (echo_lag_gt_minPeriod hd htop hk) (echo_lag_le_rawLag (one_le_minPeriod hp) hd htop hk)

/-- Settles O29: the bounds of the lags, the values they hold (`readTable_echo`), and that nothing else is read
(`correct_of_reads_eq`). -/
theorem echoLagsStayInRange : Obligations.EchoLagsStayInRange := by
  refine ⟨fun s d k hinv hmaxc hblag hvalid hlo hlag hd htop hk => ?_,
    fun s t maxCount rawLag hp hcfg h => correct_of_reads_eq hp hcfg h⟩
  have hready := (correctionReady_iff s).mpr ⟨hmaxc, hblag, hvalid, hlo⟩
  exact ⟨minPeriod_le_candidate hd htop, echo_lag_gt_minPeriod hd htop hk,
    echo_lag_le_rawLag (one_le_minPeriod hinv.params) hd htop hk, readTable_echo hinv hready hlag hd htop hk⟩

/-! #### The command (42_harmonic.md R141 to R143) -/

/-- `HCORR` past its preconditions writes what the search answers. -/
theorem exec_hcorr_of_correct {s : State} {c : Nat} (hready : correctionReady s = true)
    (hlag : s.bestLag.toNat < halfWindow s.cfg) (hc : correct s s.maxCount.toNat s.bestLag.toNat = .ok c) :
    exec .hcorr s = .next (respond (.ok (BitVec.ofNat 32 c)) (setCorrLag (BitVec.ofNat 32 c) s)) := by
  have hnot : ¬ correctionReady s = false := by simp [hready]
  have hin : ¬ halfWindow s.cfg ≤ s.bestLag.toNat := Nat.not_le.mpr hlag
  rw [exec, execHcorr, if_neg hnot, if_neg hin, applyCorrection_eq_ok.mpr ⟨hc, rfl⟩, ok_bind]
  rfl

/-- Settles O30: every echo of a divisor tried holds a value (`readTable_echo`), so the search takes the largest divisor
that passes (`searchDivisor_of_values`), and the command writes its answer (`exec_hcorr_of_correct`). -/
theorem hcorrTakesLargestPassingDivisor : Obligations.HcorrTakesLargestPassingDivisor := by
  intro s hinv hmaxc hblag hvalid hlo hlag
  have hready := (correctionReady_iff s).mpr ⟨hmaxc, hblag, hvalid, hlo⟩
  obtain ⟨c, hc, hchoice⟩ := searchDivisor_of_values (s := s) (maxCount := s.maxCount.toNat)
    (rawLag := s.bestLag.toNat) (s.bestLag.toNat / s.cfg.minPeriod - 1) fun d hd hn k hk1 hkd =>
      readTable_echo hinv hready hlag hd (by omega) ((mem_echoOffsets d k).mpr ⟨hk1, hkd⟩)
  have hfits : c < 2 ^ 32 := (searchDivisor_le hc).trans_lt s.bestLag.isLt
  refine ⟨c, hfits, exec_hcorr_of_correct hready hlag hc, ?_⟩
  rcases hchoice with ⟨d, hd, hn, hcd, hpass, hlarger⟩ | ⟨hraw, hnone⟩
  · exact .inl ⟨d, hd, by omega, hpass, hcd, fun d' hlt htop => hlarger d' hlt (by omega)⟩
  · exact .inr ⟨hraw, fun d hd htop => hnone d hd (by omega)⟩

/-! #### What a corrected lag can be (42_harmonic.md R144) -/

/-- The search answers the raw lag or the candidate of a divisor it tried. -/
theorem searchDivisor_answers {s : State} {maxCount rawLag n c : Nat}
    (h : searchDivisor s maxCount rawLag n = .ok c) : c = rawLag ∨ ∃ d, 1 ≤ d ∧ d ≤ n ∧ c = rawLag / d := by
  induction n with
  | zero => cases h; exact .inl rfl
  | succ n ih =>
    obtain ⟨pass, -, h⟩ := bind_eq_ok.mp h
    cases pass with
    | true => cases h; exact .inr ⟨n + 1, Nat.succ_pos n, le_rfl, rfl⟩
    | false => exact (ih h).imp_right fun ⟨d, hd, hn, hc⟩ => ⟨d, hd, Nat.le_succ_of_le hn, hc⟩

theorem minPeriod_le_correct {s : State} {maxCount rawLag c : Nat} (h : correct s maxCount rawLag = .ok c)
    (hraw : s.cfg.minPeriod ≤ rawLag) : s.cfg.minPeriod ≤ c := by
  rcases searchDivisor_answers h with rfl | ⟨d, hd, hn, rfl⟩
  · exact hraw
  · exact minPeriod_le_candidate hd (by omega)

/-- Below two minimum periods no divisor is tried (42_harmonic.md R145.3). -/
theorem correct_eq_rawLag_of_lt {s : State} {maxCount rawLag c : Nat} (h : correct s maxCount rawLag = .ok c)
    (hraw : rawLag < 2 * s.cfg.minPeriod) : c = rawLag := by
  have hdiv : rawLag / s.cfg.minPeriod < 2 := Nat.div_lt_of_lt_mul (by omega)
  rcases searchDivisor_answers h with hc | ⟨d, hd, hn, -⟩
  · exact hc
  · omega

/-- An `HCORR` that ends normally left the answer of the search in `CORR_LAG`. -/
theorem exec_hcorr_ok {s t : State} {v : Word} (h : exec .hcorr s = .next t) (hv : t.rsp = some (.ok v)) :
    ∃ c, correct s s.maxCount.toNat s.bestLag.toNat = .ok c ∧ t.corrLag = BitVec.ofNat 32 c := by
  rcases exec_next h with ⟨cause, rfl⟩ | hdone
  · cases hv
  · cases hdone with
    | hcorr u c hready hlag hu =>
      obtain ⟨hc, rfl⟩ := applyCorrection_eq_ok.mp hu
      exact ⟨c, hc, rfl⟩

/-- Settles O31: the register holds the answer of the search uncut (`exec_hcorr_ok`), which has the three bounds. -/
theorem correctedLagBounds : Obligations.CorrectedLagBounds := by
  rintro s t - h ⟨v, hv⟩
  obtain ⟨c, hc, hreg⟩ := exec_hcorr_ok h hv
  have hle := correct_le hc
  have hvalue : t.corrLag.toNat = c := by
    rw [hreg, BitVec.toNat_ofNat, Nat.mod_eq_of_lt (hle.trans_lt s.bestLag.isLt)]
  rw [hvalue]
  refine ⟨hle, minPeriod_le_correct hc, fun hraw => ?_⟩
  exact BitVec.eq_of_toNat_eq (hvalue.trans (correct_eq_rawLag_of_lt hc hraw))

/-- Settles O32: the two checks in the order of R143. -/
theorem hcorrPreconditions : Obligations.HcorrPreconditions := by
  refine fun s => ⟨fun h => ?unwritten, fun hmaxc hblag hvalid hlo hlag => ?range⟩
  case unwritten =>
    have hnot : correctionReady s = false := by
      rw [Bool.eq_false_iff, ne_eq, correctionReady_iff]
      rintro ⟨hmaxc, hblag, hvalid, hlo⟩
      simp [hmaxc, hblag, hvalid, Nat.not_lt.mpr hlo] at h
    rw [exec, execHcorr, if_pos hnot]
    exact raised_faultsWith _ _ s
  case range =>
    have hready := (correctionReady_iff s).mpr ⟨hmaxc, hblag, hvalid, hlo⟩
    rw [exec, execHcorr, if_neg (by simp [hready]), if_pos hlag]
    exact raised_faultsWith _ _ s

end Sys2Proof.Machine

namespace Sys2Proof.Machine

/-! ### The sub-sample refiner (43_refiner.md)

On a full window the scan decides between a first edge and no edge (`nextEdge_eq_some`, `nextEdge_eq_none`), so the
edge-level conditions of the statements give the answer of `refineAt`, and `exec_refine_of_refineAt` carries that answer
to the command. -/

/-! #### The scan (43_refiner.md R153) -/

/-- The smallest edge of a range is one edge. -/
theorem FirstEdge.unique {s : State} {start i j : Nat} (hi : FirstEdge s start i) (hj : FirstEdge s start j) : i = j := by
  obtain ⟨hedgei, hgei, hfirsti⟩ := hi
  obtain ⟨hedgej, hgej, hfirstj⟩ := hj
  rcases Nat.lt_trichotomy i j with hlt | heq | hlt
  · exact absurd hedgei (hfirstj i hlt hgei)
  · exact heq
  · exact absurd hedgej (hfirsti j hlt hgej)

section

variable {s : State} {start lag i i1 i2 : Nat}

theorem not_noEdge_of_firstEdge (h : FirstEdge s start i) : ¬ NoEdge s start := by
  obtain ⟨hedge, hge, -⟩ := h
  exact fun hno => hno i hedge.2.1 hge hedge

/-- On a full window the scan always answers, and it answers none only if there is no edge. -/
theorem exists_nextEdge (hs : SamplesInv s) (hfull : s.wrIdx = windowSize s.cfg) (start : Nat) :
    ∃ r, nextEdge s start = .ok r ∧ (r = none → NoEdge s start) := by
  by_cases hin : max start 1 ≤ windowSize s.cfg
  · obtain ⟨r, hr, -, hnone⟩ :=
      scanEdge_of_values hs (windowSize s.cfg - max start 1) (max start 1) (by omega)
    exact ⟨r, hr, fun hn j hlt hge hedge => hnone hn j hge (by omega) hedge.2.2⟩
  · have hempty : windowSize s.cfg - max start 1 = 0 := by omega
    exact ⟨none, by rw [nextEdge, hempty]; rfl, fun _ j hlt hge => by omega⟩

/-- The two answers of the scan, each with what it says of the window. -/
theorem nextEdge_cases (hs : SamplesInv s) (hfull : s.wrIdx = windowSize s.cfg) (start : Nat) :
    (∃ i, nextEdge s start = .ok (some i) ∧ FirstEdge s start i) ∨ (nextEdge s start = .ok none ∧ NoEdge s start) := by
  obtain ⟨r, hr, hnone⟩ := exists_nextEdge hs hfull start
  cases r with
  | none => exact .inr ⟨hr, hnone rfl⟩
  | some i => exact .inl ⟨i, hr, firstEdge_of_nextEdge hs hfull hr⟩

theorem nextEdge_eq_some (hs : SamplesInv s) (hfull : s.wrIdx = windowSize s.cfg) (h : FirstEdge s start i) :
    nextEdge s start = .ok (some i) := by
  rcases nextEdge_cases hs hfull start with ⟨j, hj, hfirst⟩ | ⟨-, hno⟩
  · rwa [h.unique hfirst]
  · exact absurd hno (not_noEdge_of_firstEdge h)

theorem nextEdge_eq_none (hs : SamplesInv s) (hfull : s.wrIdx = windowSize s.cfg) (h : NoEdge s start) :
    nextEdge s start = .ok none := by
  rcases nextEdge_cases hs hfull start with ⟨j, -, hfirst⟩ | ⟨hnone, -⟩
  · exact absurd h (not_noEdge_of_firstEdge hfirst)
  · exact hnone

/-! #### The result of a refinement (43_refiner.md R152, R154, R164) -/

theorem refineAt_of_window_le (h : windowSize s.cfg ≤ lag) : refineAt s lag = .ok .undetermined := if_pos h

/-- Without an edge for one of the two scans there is no period. -/
theorem refineAt_of_noEdge (hs : SamplesInv s) (hfull : s.wrIdx = windowSize s.cfg)
    (h : NoEdge s 0 ∨ NoEdge s (lag - 1)) : refineAt s lag = .ok .undetermined := by
  by_cases hlag : windowSize s.cfg ≤ lag
  · exact refineAt_of_window_le hlag
  rw [refineAt, if_neg hlag]
  rcases nextEdge_cases hs hfull 0 with ⟨i1, hsome, hfirst⟩ | ⟨hnone, -⟩
  · have hsecond := nextEdge_eq_none hs hfull (h.resolve_left (not_noEdge_of_firstEdge hfirst))
    simp only [hsome, hsecond, ok_bind, pure_eq_ok]
  · simp only [hnone, ok_bind, pure_eq_ok]

/-- With an edge for each scan the two edges give the result. -/
theorem refineAt_of_edges (hs : SamplesInv s) (hfull : s.wrIdx = windowSize s.cfg) (hlag : lag < windowSize s.cfg)
    (h1 : FirstEdge s 0 i1) (h2 : FirstEdge s (lag - 1) i2) : refineAt s lag = refineEdges s i1 i2 := by
  rw [refineAt, if_neg (Nat.not_le.mpr hlag), nextEdge_eq_some hs hfull h1, ok_bind, nextEdge_eq_some hs hfull h2]
  rfl

/-- One edge found twice has period 0, which is undetermined (43_refiner.md R159). -/
theorem refineAt_of_same_edge (hs : SamplesInv s) (hfull : s.wrIdx = windowSize s.cfg) (h1 : FirstEdge s 0 i)
    (h2 : FirstEdge s (lag - 1) i) : refineAt s lag = .ok .undetermined := by
  by_cases hlag : windowSize s.cfg ≤ lag
  · exact refineAt_of_window_le hlag
  have hin : i < s.wrIdx := hfull ▸ h1.1.2.1
  rw [refineAt_of_edges hs hfull (Nat.not_le.mp hlag) h1 h2, refineEdges_of_values hs hin hin,
    if_pos (periodN_self s i).le]

/-- Two edges apart have a positive period, so the quotient is the result. -/
theorem refineAt_of_two_edges (hs : SamplesInv s) (hfull : s.wrIdx = windowSize s.cfg) (hlag : lag < windowSize s.cfg)
    (h1 : FirstEdge s 0 i1) (h2 : FirstEdge s (lag - 1) i2) (hN : 0 < periodN s i1 i2) :
    refineAt s lag = .ok (.frequency i1 i2
      (s.cfg.sampleRate * 4096 * (periodD s i1 i2).toNat / (periodN s i1 i2).toNat)) := by
  rw [refineAt_of_edges hs hfull hlag h1 h2, refineEdges_of_values hs (hfull ▸ h1.1.2.1) (hfull ▸ h2.1.2.1),
    if_neg (Int.not_le.mpr hN)]

/-- `REFINE` past its preconditions writes the result of the refinement. -/
theorem exec_refine_of_refineAt {r : Refinement} (hfull : s.wrIdx = windowSize s.cfg) (hmark : s.vClag = true)
    (hlag : s.corrLag ≠ 0#32) (hr : refineAt s s.corrLag.toNat = .ok r) :
    exec .refine s = .next (writeResult r s) := by
  have hwin := (winFull_iff s).mpr hfull
  rw [exec, execRefine, if_neg (by simp [hwin]), if_neg (by simp [hmark]), if_neg hlag,
    applyRefinement_eq_ok.mpr ⟨r, hr, rfl⟩, finish_ok]

end

/-- Settles O33: the answers of the scan are `nextEdge_cases`, and the sample of an edge is positive where the edge
after it would need one that is not (`not_isEdge_succ`). -/
theorem nextEdgeIsFirstEdge : Obligations.NextEdgeIsFirstEdge := by
  intro s start hinv hfull
  have index_zero : ¬ IsEdge s 0 := fun hedge => absurd hedge.1 (by decide)
  exact ⟨nextEdge_cases hinv.samples hfull start, index_zero, fun i => not_isEdge_succ⟩

/-- Settles O34: in each of the four cases `refineAt` is undetermined, and so is what `REFINE` writes. -/
theorem refineUndetermined : Obligations.RefineUndetermined := by
  intro s hinv hfull hmark hlag hcase
  have hr : refineAt s s.corrLag.toNat = .ok .undetermined := by
    rcases hcase with hbeyond | hnone | hnone | ⟨i, h1, h2⟩
    · exact refineAt_of_window_le hbeyond
    · exact refineAt_of_noEdge hinv.samples hfull (.inl hnone)
    · exact refineAt_of_noEdge hinv.samples hfull (.inr hnone)
    · exact refineAt_of_same_edge hinv.samples hfull h1 h2
  exact exec_refine_of_refineAt hfull hmark hlag hr

/-! #### The period and the frequency (43_refiner.md R157, R158, R160) -/

/-- The natural quotient of 43_refiner.md R158 is the floor of the rational one. -/
theorem quotient_floor {scale : Nat} {d n : Int} (hd : 0 ≤ d) (hn : 0 < n) :
    ((scale * d.toNat / n.toNat : Nat) : Int) * n ≤ scale * d ∧
      scale * d < ((scale * d.toNat / n.toNat : Nat) + 1 : Int) * n := by
  lift d to Nat using hd
  lift n to Nat using hn.le
  norm_cast at hn ⊢
  exact ⟨Nat.div_mul_le_self _ _, Nat.lt_mul_of_div_lt (Nat.lt_succ_self _) hn⟩

/-- Settles O35: the period of two edges apart exceeds 1 (`periodD_lt_periodN`), so `REFINE` writes the quotient
(`refineAt_of_two_edges`), which is a floor (`quotient_floor`) and fits the register (`refineAt_frequency_bounds`). -/
theorem refineFrequency : Obligations.RefineFrequency := by
  intro s i1 i2 hinv hfull hmark hlag hin h1 h2 hne
  have hD := periodD_pos h1.1 h2.1
  have hN := hD.trans (periodD_lt_periodN h1.1 h2.1 (edges_apart h1 h2.1 hne))
  have hr := refineAt_of_two_edges hinv.samples hfull hin h1 h2 hN
  obtain ⟨-, -, -, -, hrate⟩ := refineAt_frequency_bounds hinv.params hinv.samples hfull hr
  have hsr : s.cfg.sampleRate < 2 ^ 20 := hinv.params.2.1
  obtain ⟨hle, hlt⟩ := quotient_floor (scale := s.cfg.sampleRate * 4096) hD.le hN
  push_cast at hle hlt
  exact ⟨_, by omega, mod_cast hle, mod_cast hlt, exec_refine_of_refineAt hfull hmark hlag hr⟩

/-- The scans find the same edge exactly when the first edge of the window stands where the second scan looks
(43_refiner.md R160 (a)). -/
theorem same_edge_iff {s : State} {start i1 i2 : Nat} (h1 : FirstEdge s 0 i1) (h2 : FirstEdge s start i2) :
    i1 = i2 ↔ start ≤ i1 := by
  refine ⟨fun heq => ?_, fun hle => ?_⟩
  · have hge := h2.2.1
    omega
  · obtain ⟨hedge, hge, hfirst⟩ := h1
    exact FirstEdge.unique ⟨hedge, by omega, fun j hlt hj => hfirst j hlt (by omega)⟩ h2

/-- The period is never negative: 0 for one edge, more than 1 for two (43_refiner.md R160 (c)). -/
theorem periodN_nonneg {s : State} {i1 i2 : Nat} (h1 : FirstEdge s 0 i1) (h2 : IsEdge s i2) : 0 ≤ periodN s i1 i2 := by
  by_cases heq : i1 = i2
  · rw [heq, periodN_self]
  · exact ((periodD_pos h1.1 h2).trans (periodD_lt_periodN h1.1 h2 (edges_apart h1 h2 heq))).le

/-- Settles O36: parts (a) to (d) of R160, each a lemma about two edges. -/
theorem periodBounds : Obligations.PeriodBounds := by
  rintro s lag i1 i2 - - - - h1 h2
  have hedge1 := h1.1
  have hedge2 := h2.1
  have zero_of_same : i1 = i2 → periodN s i1 i2 = 0 := fun heq => heq ▸ periodN_self s i1
  have apart : i1 ≠ i2 → i1 + 2 ≤ i2 ∧ periodD s i1 i2 < periodN s i1 i2 := fun hne =>
    have hap := edges_apart h1 hedge2 hne
    ⟨hap, periodD_lt_periodN hedge1 hedge2 hap⟩
  exact ⟨same_edge_iff h1 h2, zero_of_same, apart, periodN_nonneg h1 hedge2, periodD_pos hedge1 hedge2,
    periodN_lt hedge1 hedge2, hedge1.1, Nat.le_sub_one_of_lt hedge2.2.1⟩

/-! #### The response (43_refiner.md R158, R161) -/

/-- A result is the response it is written with. -/
theorem writeResult_rsp (r : Refinement) (s : State) :
    (writeResult r s).rsp = some (.ok (writeResult r s).freq) := by
  cases r with
  | undetermined => rfl
  | frequency i1 i2 q => rfl

/-- Both commands that refine end by writing a result. -/
theorem exec_eq_writeResult {i : Instr} {s t : State} {v : Word} (hi : i = .refine ∨ i = .run)
    (h : exec i s = .next t) (hv : t.rsp = some (.ok v)) : ∃ r u, t = writeResult r u := by
  rcases exec_next h with ⟨c, rfl⟩ | hdone
  · cases hv
  · rcases hi with rfl | rfl
    · cases hdone with
      | refine _ hfull hmark hlag ht =>
        obtain ⟨r, -, heq⟩ := applyRefinement_eq_ok.mp ht
        exact ⟨r, s, heq⟩
    · cases hdone with
      | run a b _ maxCount lag c hfull ha hb ht =>
        obtain ⟨r, -, heq⟩ := applyRefinement_eq_ok.mp ht
        exact ⟨r, b, heq⟩

/-- Settles O37: the response is the `FREQ` written (`writeResult_rsp`), and the state reached meets the invariant
(`exec_keeps_inv`), which says that an undetermined `FREQ` is 0 and bounds a determined one. -/
theorem zeroResponseMeansUndetermined : Obligations.ZeroResponseMeansUndetermined := by
  intro i s t v hi hinv h hv
  obtain ⟨-, hzero, -, hdet⟩ := (exec_keeps_inv hinv h).result
  have hcfg := (exec_frame h).1
  obtain ⟨r, u, rfl⟩ := exec_eq_writeResult hi h hv
  obtain ⟨-, -, -, -, -, -, hres⟩ := writeResult_frame r u
  have hfreq : (writeResult r u).freq = v := by simpa [writeResult_rsp] using hv
  have bounds : (writeResult r u).undet = false →
      1 ≤ (writeResult r u).freq.toNat ∧ (writeResult r u).freq.toNat < s.cfg.sampleRate * 4096 := fun hundet => by
    obtain ⟨-, -, -, hone, hrate⟩ := hdet ⟨hres, hundet⟩
    exact ⟨hone, hcfg ▸ hrate⟩
  refine ⟨hres, hfreq, ⟨fun hv0 => ?_, fun hundet => ?_⟩, bounds⟩
  · by_contra hundet
    have hone := (bounds (Bool.eq_false_iff.mpr hundet)).1
    simp [hfreq, hv0] at hone
  · obtain ⟨-, -, hfreq0⟩ := hzero (.inr hundet)
    exact hfreq.symm.trans hfreq0

/-! #### The preconditions (43_refiner.md R162) -/

/-- Settles O38: the three checks in the order of R162. -/
theorem refinePreconditions : Obligations.RefinePreconditions := by
  refine fun s => ⟨fun hshort => ?short, fun hfull hmark => ?unwritten, fun hfull hmark hlag => ?range⟩
  case short =>
    rw [exec, execRefine, if_pos ((winFull_eq_false_iff s).mpr hshort)]
    exact raised_faultsWith _ _ s
  case unwritten =>
    have hwin := (winFull_iff s).mpr hfull
    rw [exec, execRefine, if_neg (by simp [hwin]), if_pos hmark]
    exact raised_faultsWith _ _ s
  case range =>
    have hwin := (winFull_iff s).mpr hfull
    rw [exec, execRefine, if_neg (by simp [hwin]), if_neg (by simp [hmark]), if_pos hlag]
    exact raised_faultsWith _ _ s

end Sys2Proof.Machine

namespace Sys2Proof.Machine

/-! ### The pipeline (44_pipeline.md)

Each of the three commands is given once as a function of the state: `opened` for `WRST`, `pushed` for `PUSH`, and
`estimated` for `RUN`, which takes what the three engines find (`RunFinds`). What they find is a function of `BITS`,
`SIG` and the parameters (`RunFinds.congr`), and from this follow that `RUN` may be repeated and that an estimate
depends on the samples alone. -/

/-! #### `WRST` (44_pipeline.md R171) -/

/-- The state after `WRST`. -/
def opened (s : State) : State := respond (.ok 0#32) (windowReset s)

theorem readBits_opened {s : State} {a : Nat} (h : a < wordCount s.cfg) : readBits (opened s) a = .ok 0#32 :=
  readBits_of_lt (s := opened s) h

theorem readSig_opened {s : State} {i : Nat} (h : i < windowSize s.cfg) :
    readSig (opened s) i = .error (.noValue .sig i) := if_pos h

theorem readTable_opened {s : State} {p : Nat} (h : p < halfWindow s.cfg) :
    readTable (opened s) p = .error (.noValue .table p) := if_pos h

/-- Settles O39: `windowReset` gives every register its reset value, and the emptied memories read as after reset. -/
theorem wrstOpensWindow : Obligations.WrstOpensWindow := fun s =>
  ⟨opened s, exec_wrst s, rfl, rfl, fun _ h => readBits_opened h, rfl, fun _ h => readSig_opened h, rfl, rfl,
    fun _ h => readTable_opened h, rfl, rfl, rfl, rfl, rfl, rfl, rfl, rfl, rfl, rfl, rfl, rfl, rfl, rfl, rfl⟩

/-! #### `PUSH` (44_pipeline.md R174 to R176) -/

/-- The state after a sample is taken into a window with room for it: the latch, the stream bit, the sample. -/
def sampled (s : State) (smp : Sample) : State :=
  setSig (put s.mem.sig s.wrIdx smp) (s.wrIdx + 1)
    (storeBit (setLatched (zcNext s.latched smp) s) s.wrIdx (zcNext s.latched smp))

/-- The state after a `PUSH` into a window with room. -/
def pushed (s : State) (smp : Sample) : State := respond (.ok (bitWord (zcNext s.latched smp))) (sampled s smp)

/-- The rule of 40_zerocross.md R102 with its two bounds as whole numbers. -/
theorem zcNext_eq (l : Bool) (smp : Sample) :
    zcNext l smp = if smp.toInt ≤ -3277 then false else if 1 ≤ smp.toInt then true else l := by
  simp only [zcNext, belowBand_iff, aboveBand_iff]

theorem takeSample_eq_sampled {s : State} (hp : paramsOk s.cfg) (h : s.wrIdx < windowSize s.cfg) (smp : Sample) :
    takeSample smp s = .ok (sampled s smp) := by
  have hbit := writeBit_eq_storeBit (s := setLatched (zcNext s.latched smp) s) hp h (zcNext s.latched smp)
  rw [takeSample, hbit, ok_bind]
  exact appendSig_eq_ok.mpr ⟨h, rfl⟩

theorem exec_push_of_lt {s : State} (hp : paramsOk s.cfg) (h : s.wrIdx < windowSize s.cfg) (smp : Sample) :
    exec (.push smp) s = .next (pushed s smp) := by
  have hroom : ¬ winFull s = true := by rw [winFull_iff]; omega
  rw [exec, execPush, if_neg hroom, takeSample_eq_sampled hp h, ok_bind, pure_eq_ok, finish_ok, pushed]

theorem exec_push_of_full {s : State} (h : s.wrIdx = windowSize s.cfg) (smp : Sample) :
    exec (.push smp) s = raised .windowFull (encode (.push smp)) s := if_pos ((winFull_iff s).mpr h)

theorem lookup_sig_pushed (s : State) (smp : Sample) (i : Nat) :
    lookup (pushed s smp).mem.sig i = if i = s.wrIdx then some smp else lookup s.mem.sig i :=
  lookup_put s.mem.sig s.wrIdx i smp

theorem readSig_pushed_same {s : State} (h : s.wrIdx < windowSize s.cfg) (smp : Sample) :
    readSig (pushed s smp) s.wrIdx = .ok smp :=
  readSig_eq_ok.mpr ⟨h, by rw [lookup_sig_pushed, if_pos rfl]⟩

theorem readSig_pushed_other {s : State} (smp : Sample) {i : Nat} (h : i ≠ s.wrIdx) :
    readSig (pushed s smp) i = readSig s i := by
  have hcfg : (pushed s smp).cfg = s.cfg := rfl
  rw [readSig, readSig, lookup_sig_pushed, if_neg h, hcfg]

theorem streamBit_pushed {s : State} (h : Rising s.mem.bits) (smp : Sample) (j : Nat) :
    streamBit (pushed s smp) j = if j = s.wrIdx then zcNext s.latched smp else streamBit s j :=
  streamBit_storeBit (s := setLatched (zcNext s.latched smp) s) h s.wrIdx j (zcNext s.latched smp)

theorem readBits_pushed_other {s : State} (h : Rising s.mem.bits) (smp : Sample) {a : Nat}
    (ha : a ≠ wordOfBit s.wrIdx) : readBits (pushed s smp) a = readBits s a :=
  readBits_storeBit_other (s := setLatched (zcNext s.latched smp) s) h ha (zcNext s.latched smp)

/-- Settles O41: with room the state after is `pushed`, whose memories read as the lemmas above say; a full window
raises `WindowFull`. -/
theorem pushTakesSample : Obligations.PushTakesSample := by
  intro smp s b hinv hb
  obtain rfl : b = zcNext s.latched smp := hb.trans (zcNext_eq s.latched smp).symm
  refine ⟨fun hroom => ?room, fun hfull => ?full⟩
  case room =>
    have hrise := hinv.rising_bits
    exact ⟨pushed s smp, exec_push_of_lt hinv.params hroom smp, rfl, rfl, rfl, readSig_pushed_same hroom smp,
      fun i hi => readSig_pushed_other smp hi, (streamBit_pushed hrise smp _).trans (if_pos rfl),
      fun j hj => (streamBit_pushed hrise smp j).trans (if_neg hj), fun a ha => readBits_pushed_other hrise smp ha,
      readTable_congr rfl rfl, rfl⟩
  case full =>
    rw [exec_push_of_full hfull]
    exact raised_faultsWith _ _ s

/-- Settles O42: the bit `sampled` stores is the one `BSET` stores after `ZC` has moved the latch. -/
theorem pushIsZcThenBset : Obligations.PushIsZcThenBset := by
  intro smp s hinv hroom
  have hset := exec_bset_of_lt (s := respond (.ok (bitWord (zcNext s.latched smp)))
    (setLatched (zcNext s.latched smp) s)) hinv.params hroom (zcNext s.latched smp)
  exact ⟨_, _, pushed s smp, exec_zc smp s, hset, exec_push_of_lt hinv.params hroom smp, rfl, rfl, rfl, rfl⟩

/-! #### The writers of `WR_IDX` (44_pipeline.md R175) -/

theorem takeSample_wrIdx {s t : State} {smp : Sample} (h : takeSample smp s = .ok t) :
    t.wrIdx = s.wrIdx + 1 ∧ s.wrIdx < windowSize s.cfg := by
  obtain ⟨w, -, happ⟩ := takeSample_writes h
  obtain ⟨hlt, rfl⟩ := appendSig_eq_ok.mp happ
  exact ⟨rfl, hlt⟩

/-- What a command that completes does to `WR_IDX`. -/
theorem completes_wrIdx {i : Instr} {s t : State} (h : Completes s i t) :
    t.wrIdx = s.wrIdx ∨ (i = .wrst ∧ t.wrIdx = 0) ∨
      ((∃ smp, i = .push smp) ∧ t.wrIdx = s.wrIdx + 1 ∧ s.wrIdx < windowSize s.cfg) := by
  cases h with
  | nop | zc | bget | tget | rdr | wget => exact .inl rfl
  | wrst => exact .inr (.inl ⟨rfl, rfl⟩)
  | push smp u hfull hu =>
    have hmoves := takeSample_wrIdx hu
    exact .inr (.inr ⟨⟨smp, rfl⟩, hmoves⟩)
  | bset idx v u hu =>
    obtain ⟨w, -, rfl⟩ := writeBit_writes hu
    exact .inl rfl
  | acorr idx u maxCount lag hidx hu =>
    obtain ⟨m, rfl⟩ := autocorrelate_writes hu
    exact .inl rfl
  | hcorr u c hready hlag hu =>
    obtain ⟨-, rfl⟩ := applyCorrection_eq_ok.mp hu
    exact .inl rfl
  | refine _ hfull hmark hlag ht =>
    obtain ⟨v, u, e0, e1, f, rfl⟩ := applyRefinement_writes ht
    exact .inl rfl
  | run a b _ maxCount lag c hfull ha hb ht =>
    obtain ⟨m, rfl⟩ := autocorrelate_writes ha
    obtain ⟨-, rfl⟩ := applyCorrection_eq_ok.mp hb
    obtain ⟨v, u, e0, e1, f, rfl⟩ := applyRefinement_writes ht
    exact .inl rfl
  | ldr reg imm hreg => cases reg <;> exact .inl rfl

/-- Settles O43: a fault leaves `WR_IDX`, and `completes_wrIdx` is the case of a command that completes. -/
theorem writeIndexMoves : Obligations.WriteIndexMoves := by
  intro i s t h
  rcases exec_next h with ⟨c, rfl⟩ | hdone
  · exact .inl (by rw [raise, respond_wrIdx, record_wrIdx])
  · exact completes_wrIdx hdone

/-! #### What the engines find on a window -/

section

variable {s t : State} {start maxCount maxCount' lag lag' c : Nat} {r : Refinement}

theorem bitCount_congr (hm : t.mem.bits = s.mem.bits) (hc : t.cfg = s.cfg) (pos : Nat) :
    bitCount t pos = bitCount s pos := by
  simp only [bitCount, streamBit, hm, hc]

/-- The words of 41_bitstream.md R124 determine both numbers. -/
theorem LagExtremes.unique (h : LagExtremes s start maxCount lag) (h' : LagExtremes s start maxCount' lag') :
    maxCount = maxCount' ∧ lag = lag' := by
  constructor
  · obtain ⟨p, hp, hlt, rfl⟩ := h.max_attained
    obtain ⟨p', hp', hlt', rfl⟩ := h'.max_attained
    exact Nat.le_antisymm (h'.le_max p hp hlt) (h.le_max p' hp' hlt')
  · rcases Nat.lt_trichotomy lag lag' with hlt | heq | hlt
    · exact absurd (h'.min_first lag h.start_le hlt) (Nat.not_lt.mpr (h.min_le lag' h'.start_le h'.lag_lt))
    · exact heq
    · exact absurd (h.min_first lag' h'.start_le hlt) (Nat.not_lt.mpr (h'.min_le lag h.start_le h.lag_lt))

theorem LagExtremes.congr (hm : t.mem.bits = s.mem.bits) (hc : t.cfg = s.cfg)
    (h : LagExtremes s start maxCount lag) : LagExtremes t start maxCount lag := by
  obtain ⟨hstart, hlag, hle, hattained, hmin, hfirst⟩ := h
  constructor <;> simpa only [bitCount_congr hm hc, hc]

/-- The table of the counts from lag `start` on. -/
def countTable (s : State) (start : Nat) : Cells 16 :=
  (lagsFrom s start).map (fun p => (p, BitVec.ofNat 16 (wordCountAt s p)))

theorem countTable_congr (hm : t.mem.bits = s.mem.bits) (hc : t.cfg = s.cfg) :
    countTable t start = countTable s start := by
  simp only [countTable, lagsFrom, hc, wordCountAt_eq_bitCount, bitCount_congr hm hc]

/-- `RunFinds s maxCount lag c r`: on the window of `s` the autocorrelation from `MIN_PERIOD` finds the extremes
`maxCount` and `lag`, the corrector makes `c` of them, and the refiner answers `r` for `c` (44_pipeline.md R178). -/
structure RunFinds (s : State) (maxCount lag c : Nat) (r : Refinement) : Prop where
  extremes : LagExtremes s s.cfg.minPeriod maxCount lag
  corrected : correct (correlated s s.cfg.minPeriod maxCount lag) maxCount lag = .ok c
  refined : refineAt s c = .ok r

/-- What the engines find is a function of `BITS`, `SIG` and the parameters. -/
theorem RunFinds.congr (h : RunFinds s maxCount lag c r) (hbits : t.mem.bits = s.mem.bits)
    (hsig : t.mem.sig = s.mem.sig) (hc : t.cfg = s.cfg) : RunFinds t maxCount lag c r := by
  obtain ⟨hext, hcorr, href⟩ := h
  constructor
  case extremes => exact hc ▸ hext.congr hbits hc
  case corrected =>
    have htable : (correlated t s.cfg.minPeriod maxCount lag).mem.table =
        (correlated s s.cfg.minPeriod maxCount lag).mem.table := countTable_congr hbits hc
    rw [hc, ← hcorr, correct_congr htable hc]
  case refined => rw [← href, refineAt_congr hsig hc]

/-- The two extremes fit their registers. -/
theorem LagExtremes.registers (h : LagExtremes s start maxCount lag) (hp : paramsOk s.cfg) :
    (correlated s start maxCount lag).maxCount.toNat = maxCount ∧
      (correlated s start maxCount lag).bestLag.toNat = lag := by
  have hmax := h.max_lt hp
  have hlag := h.lag_lt
  have hsizes := derived_sizes hp
  exact ⟨Nat.mod_eq_of_lt (by omega), Nat.mod_eq_of_lt (by omega)⟩

theorem RunFinds.corrLag_le (h : RunFinds s maxCount lag c r) : c ≤ lag := correct_le h.corrected

theorem RunFinds.minPeriod_le_corrLag (h : RunFinds s maxCount lag c r) : s.cfg.minPeriod ≤ c :=
  minPeriod_le_correct (s := correlated s s.cfg.minPeriod maxCount lag) h.corrected h.extremes.start_le

theorem RunFinds.corrLag_toNat (h : RunFinds s maxCount lag c r) (hp : paramsOk s.cfg) :
    (BitVec.ofNat 32 c).toNat = c := by
  have hle := h.corrLag_le
  have hlag := h.extremes.lag_lt
  have hsizes := derived_sizes hp
  exact Nat.mod_eq_of_lt (by omega)

/-- The refiner's answer for the corrected lag, in any state that holds the lag and the same samples. -/
theorem RunFinds.refineAt_corrLag (h : RunFinds s maxCount lag c r) (hp : paramsOk s.cfg)
    (hsig : t.mem.sig = s.mem.sig) (hc : t.cfg = s.cfg) (hreg : t.corrLag = BitVec.ofNat 32 c) :
    refineAt t t.corrLag.toNat = .ok r := by
  rw [hreg, h.corrLag_toNat hp, refineAt_congr hsig hc, h.refined]

theorem RunFinds.corrLag_ne_zero (h : RunFinds s maxCount lag c r) (hp : paramsOk s.cfg) :
    BitVec.ofNat 32 c ≠ 0#32 := by
  intro hzero
  have hvalue : c = (0#32).toNat := hzero ▸ (h.corrLag_toNat hp).symm
  have hpos : 1 ≤ c := (one_le_minPeriod hp).trans h.minPeriod_le_corrLag
  simp [hvalue] at hpos

/-- On a full window the refiner answers for every lag. -/
theorem exists_refineAt (hs : SamplesInv s) (hfull : s.wrIdx = windowSize s.cfg) (lag : Nat) :
    ∃ r, refineAt s lag = .ok r := by
  by_cases hlag : windowSize s.cfg ≤ lag
  · exact ⟨_, refineAt_of_window_le hlag⟩
  rcases nextEdge_cases hs hfull 0 with ⟨i1, -, h1⟩ | ⟨-, hno⟩
  · rcases nextEdge_cases hs hfull (lag - 1) with ⟨i2, -, h2⟩ | ⟨-, hno⟩
    · exact ⟨_, (refineAt_of_edges hs hfull (Nat.not_le.mp hlag) h1 h2).trans
        (refineEdges_of_values hs (hfull ▸ h1.1.2.1) (hfull ▸ h2.1.2.1))⟩
    · exact ⟨_, refineAt_of_noEdge hs hfull (.inr hno)⟩
  · exact ⟨_, refineAt_of_noEdge hs hfull (.inl hno)⟩

theorem correctionReady_correlated (h : start ≤ s.cfg.minPeriod) :
    correctionReady (correlated s start maxCount lag) = true :=
  (correctionReady_iff _).mpr ⟨rfl, rfl, rfl, h⟩

/-- On a full window the engines always find something (44_pipeline.md R178). -/
theorem exists_runFinds (hinv : Inv s) (hfull : s.wrIdx = windowSize s.cfg) :
    ∃ maxCount lag c r, RunFinds s maxCount lag c r := by
  have hstart := minPeriod_lt_halfWindow hinv.params
  obtain ⟨maxCount, lag, hrun, hext⟩ := autocorrelate_eq_correlated hinv.params hstart
  have hinv' := inv_autocorrelate hinv hstart hrun
  have hready : correctionReady (correlated s s.cfg.minPeriod maxCount lag) = true := correctionReady_correlated le_rfl
  obtain ⟨hmaxReg, hlagReg⟩ := hext.registers hinv.params
  have hlag : (correlated s s.cfg.minPeriod maxCount lag).bestLag.toNat <
      halfWindow (correlated s s.cfg.minPeriod maxCount lag).cfg := by rw [hlagReg]; exact hext.lag_lt
  obtain ⟨hmaxc, hblag, hvalid, hlo⟩ := (correctionReady_iff _).mp hready
  obtain ⟨c, -, hexec, -⟩ := hcorrTakesLargestPassingDivisor _ hinv' hmaxc hblag hvalid hlo hlag
  obtain ⟨c, hc, -⟩ := exec_hcorr_ok hexec rfl
  rw [hmaxReg, hlagReg] at hc
  obtain ⟨r, hr⟩ := exists_refineAt hinv.samples hfull c
  exact ⟨maxCount, lag, c, r, hext, hc, hr⟩

/-! #### `RUN` (44_pipeline.md R177 to R179) -/

/-- The state after a `RUN` that found this. -/
def estimated (s : State) (maxCount lag c : Nat) (r : Refinement) : State :=
  writeResult r (setCorrLag (BitVec.ofNat 32 c) (correlated s s.cfg.minPeriod maxCount lag))

/-- `estimated` with its result as five elements and the response. -/
theorem estimated_shape (s : State) (maxCount lag c : Nat) (r : Refinement) :
    ∃ v u e0 e1 f, estimated s maxCount lag c r =
      respond (.ok v) (setResult u e0 e1 f (setCorrLag (BitVec.ofNat 32 c)
        (correlated s s.cfg.minPeriod maxCount lag))) := by
  cases r with
  | undetermined => exact ⟨_, _, _, _, _, rfl⟩
  | frequency e0 e1 q => exact ⟨_, _, _, _, _, rfl⟩

theorem estimated_frame (s : State) (maxCount lag c : Nat) (r : Refinement) :
    (estimated s maxCount lag c r).mem.bits = s.mem.bits ∧ (estimated s maxCount lag c r).mem.sig = s.mem.sig ∧
      (estimated s maxCount lag c r).wrIdx = s.wrIdx ∧ (estimated s maxCount lag c r).cfg = s.cfg ∧
      (estimated s maxCount lag c r).errCode = s.errCode ∧ (estimated s maxCount lag c r).errCmd = s.errCmd ∧
      ∃ v, (estimated s maxCount lag c r).rsp = some (.ok v) := by
  obtain ⟨v, u, e0, e1, f, hresult⟩ := estimated_shape s maxCount lag c r
  rw [hresult]
  exact ⟨rfl, rfl, rfl, rfl, rfl, rfl, v, rfl⟩

theorem readTable_estimated (s : State) (maxCount lag c : Nat) (r : Refinement) (p : Nat) :
    readTable (estimated s maxCount lag c r) p = readTable (correlated s s.cfg.minPeriod maxCount lag) p := by
  obtain ⟨v, u, e0, e1, f, hresult⟩ := estimated_shape s maxCount lag c r
  rw [hresult]
  apply readTable_congr <;> rfl

/-- What `RUN` writes, in the order of its three engines. -/
def runWrites (table : Cells 16) (lo maxCount lag c : Nat) (r : Refinement) (s : State) : State :=
  writeResult r (setCorrLag (BitVec.ofNat 32 c)
    (setBestLag (BitVec.ofNat 32 lag) (setMaxCount (BitVec.ofNat 32 maxCount) (setTable table lo s))))

theorem estimated_eq_runWrites (s : State) (maxCount lag c : Nat) (r : Refinement) :
    estimated s maxCount lag c r = runWrites (countTable s s.cfg.minPeriod) s.cfg.minPeriod maxCount lag c r s := rfl

theorem runWrites_runWrites (table : Cells 16) (lo maxCount lag c : Nat) (r : Refinement) (s : State) :
    runWrites table lo maxCount lag c r (runWrites table lo maxCount lag c r s) =
      runWrites table lo maxCount lag c r s := by
  cases r <;> rfl

theorem autocorrelate_of_extremes (hp : paramsOk s.cfg) (h : LagExtremes s start maxCount lag) :
    autocorrelate start s = .ok (correlated s start maxCount lag, maxCount, lag) := by
  obtain ⟨maxCount', lag', hrun, hext⟩ := autocorrelate_eq_correlated hp (h.start_le.trans_lt h.lag_lt)
  obtain ⟨rfl, rfl⟩ := h.unique hext
  exact hrun

theorem exec_acorr_of_extremes (hp : paramsOk s.cfg) (h : LagExtremes s start maxCount lag) :
    exec (.acorr start) s = .next (respond (.ok (extremesWord maxCount lag)) (correlated s start maxCount lag)) := by
  obtain ⟨maxCount', lag', hext, hexec⟩ := exec_acorr_of_lt hp (h.start_le.trans_lt h.lag_lt)
  obtain ⟨rfl, rfl⟩ := h.unique hext
  exact hexec

theorem applyCorrection_correlated (hp : paramsOk s.cfg) (h : LagExtremes s start maxCount lag)
    (hc : correct (correlated s start maxCount lag) maxCount lag = .ok c) :
    applyCorrection (correlated s start maxCount lag) =
      .ok (setCorrLag (BitVec.ofNat 32 c) (correlated s start maxCount lag), c) := by
  obtain ⟨hmaxReg, hlagReg⟩ := h.registers hp
  exact applyCorrection_eq_ok.mpr ⟨by rw [hmaxReg, hlagReg, hc], rfl⟩

/-- `RUN` on a full window writes what the engines find. -/
theorem exec_run_of_finds (hp : paramsOk s.cfg) (hfull : s.wrIdx = windowSize s.cfg)
    (h : RunFinds s maxCount lag c r) : exec .run s = .next (estimated s maxCount lag c r) := by
  have hwin : ¬ winFull s = false := by simp [(winFull_iff s).mpr hfull]
  have hrefine : applyRefinement (setCorrLag (BitVec.ofNat 32 c) (correlated s s.cfg.minPeriod maxCount lag)) =
      .ok (estimated s maxCount lag c r) :=
    applyRefinement_eq_ok.mpr ⟨r, h.refineAt_corrLag hp rfl rfl rfl, rfl⟩
  rw [exec, execRun, if_neg hwin, autocorrelate_of_extremes hp h.extremes, ok_bind]
  change finish (applyCorrection (correlated s s.cfg.minPeriod maxCount lag) >>= fun x => applyRefinement x.1) = _
  rw [applyCorrection_correlated hp h.extremes h.corrected, ok_bind, hrefine, finish_ok]

theorem exec_run_of_short (h : s.wrIdx ≠ windowSize s.cfg) :
    exec .run s = raised .windowShort (encode .run) s := if_pos ((winFull_eq_false_iff s).mpr h)

/-- `HCORR` after `ACORR`. -/
theorem exec_hcorr_of_finds (hp : paramsOk s.cfg) (v : Word) (h : RunFinds s maxCount lag c r) :
    exec .hcorr (respond (.ok v) (correlated s s.cfg.minPeriod maxCount lag)) =
      .next (respond (.ok (BitVec.ofNat 32 c)) (setCorrLag (BitVec.ofNat 32 c)
        (respond (.ok v) (correlated s s.cfg.minPeriod maxCount lag)))) := by
  obtain ⟨hmaxReg, hlagReg⟩ := h.extremes.registers hp
  refine exec_hcorr_of_correct (correctionReady_correlated le_rfl) ?lag ?answer
  case lag => exact hlagReg.trans_lt h.extremes.lag_lt
  case answer =>
    have hsame := correct_congr (s := respond (.ok v) (correlated s s.cfg.minPeriod maxCount lag))
      (t := correlated s s.cfg.minPeriod maxCount lag) rfl rfl maxCount lag
    rw [respond_toBlock, hmaxReg, hlagReg, hsame, h.corrected]

end

/-- Settles O44: each of the three commands writes what its engine finds, and the last response stands. -/
theorem runIsAcorrHcorrRefine : Obligations.RunIsAcorrHcorrRefine := by
  intro s hinv hfull
  have hp := hinv.params
  obtain ⟨maxCount, lag, c, r, hfinds⟩ := exists_runFinds hinv hfull
  have hacorr := exec_acorr_of_extremes hp hfinds.extremes
  have hhcorr := exec_hcorr_of_finds hp (extremesWord maxCount lag) hfinds
  refine ⟨_, _, estimated s maxCount lag c r, hacorr, hhcorr, ?refine, exec_run_of_finds hp hfull hfinds⟩
  refine (exec_refine_of_refineAt ?full ?mark ?lag (hfinds.refineAt_corrLag hp ?sig ?cfg ?reg)).trans ?result
  case lag => exact hfinds.corrLag_ne_zero hp
  case full => exact hfull
  case result => cases r <;> rfl
  all_goals rfl

/-- Settles O45: on a full window the state after is `estimated`, whose table is that of `correlated` and whose lags
are bounded by the corrector's; otherwise `WindowShort` is raised. -/
theorem runCompletes : Obligations.RunCompletes := by
  refine fun s hinv => ⟨fun hfull => ?full, fun hshort => ?short⟩
  case full =>
    have hp := hinv.params
    obtain ⟨maxCount, lag, c, r, hfinds⟩ := exists_runFinds hinv hfull
    obtain ⟨-, hlagReg⟩ := hfinds.extremes.registers hp
    have hcorrReg := hfinds.corrLag_toNat hp
    have hexec := exec_run_of_finds hp hfull hfinds
    have htable := readTable_estimated s maxCount lag c r
    obtain ⟨v, u, e0, e1, f, hresult⟩ := estimated_shape s maxCount lag c r
    rw [hresult] at hexec htable
    exact ⟨_, hexec, ⟨v, rfl⟩, rfl, rfl, rfl, rfl, rfl, rfl,
      fun p h1 h2 => (htable p).trans (readTable_correlated h1 h2),
      fun p hlt => (htable p).trans (readTable_correlated_below hlt (hlt.trans (minPeriod_lt_halfWindow hp))),
      hfinds.minPeriod_le_corrLag.trans_eq hcorrReg.symm, hcorrReg.trans_le (hfinds.corrLag_le.trans_eq hlagReg.symm),
      hlagReg.trans_lt hfinds.extremes.lag_lt, readBits_congr rfl rfl, readSig_congr rfl rfl, rfl⟩
  case short =>
    rw [exec_run_of_short hshort]
    exact raised_faultsWith _ _ s

theorem estimated_estimated (s : State) (maxCount lag c : Nat) (r : Refinement) :
    estimated (estimated s maxCount lag c r) maxCount lag c r = estimated s maxCount lag c r := by
  obtain ⟨hbits, -, -, hcfg, -⟩ := estimated_frame s maxCount lag c r
  rw [estimated_eq_runWrites (estimated s maxCount lag c r), countTable_congr hbits hcfg, hcfg,
    estimated_eq_runWrites, runWrites_runWrites]

/-- Settles O46: the state a `RUN` leaves holds the window it found, so the engines find the same on it
(`RunFinds.congr`) and write it again. -/
theorem runIsRepeatable : Obligations.RunIsRepeatable := by
  intro s t hinv hfull h
  obtain ⟨maxCount, lag, c, r, hfinds⟩ := exists_runFinds hinv hfull
  rw [exec_run_of_finds hinv.params hfull hfinds] at h
  cases h
  obtain ⟨hbits, hsig, hwr, hcfg, -⟩ := estimated_frame s maxCount lag c r
  have hagain := hfinds.congr hbits hsig hcfg
  rw [exec_run_of_finds (hcfg ▸ hinv.params) (by rw [hwr, hcfg, hfull]) hagain, estimated_estimated]

/-! #### The pipeline as a function (44_pipeline.md R180) -/

/-- A sequence that ends is a first command that ends and a rest that does. -/
theorem issue_cons_eq_next {i : Instr} {rest : List Instr} {s t : State} :
    issue (i :: rest) s = .next t ↔ ∃ u, exec i s = .next u ∧ issue rest u = .next t := by
  cases h : exec i s <;> simp [issue, h]

theorem issue_cons_of_next {i : Instr} {rest : List Instr} {s t : State} (h : exec i s = .next t) :
    issue (i :: rest) s = issue rest t := by rw [issue, h]

/-- Commands issued after others that all ended. -/
theorem issue_append_of_next {first rest : List Instr} {s t : State} (h : issue first s = .next t) :
    issue (first ++ rest) s = issue rest t := by
  induction first generalizing s with
  | nil => cases h; rfl
  | cons i first ih =>
    obtain ⟨u, hi, hrest⟩ := issue_cons_eq_next.mp h
    rw [List.cons_append, issue_cons_of_next hi, ih hrest]

theorem issue_keeps_inv {is : List Instr} {s t : State} (hinv : Inv s) (h : issue is s = .next t) : Inv t := by
  induction is generalizing s with
  | nil => cases h; exact hinv
  | cons i rest ih =>
    obtain ⟨u, hi, hrest⟩ := issue_cons_eq_next.mp h
    exact ih (exec_keeps_inv hinv hi) hrest

/-- A `PUSH` for each sample, into a window with room for all. -/
theorem issue_push {smps : List Sample} {s : State} (hp : paramsOk s.cfg)
    (hroom : s.wrIdx + smps.length ≤ windowSize s.cfg) :
    issue (smps.map .push) s = .next (smps.foldl pushed s) := by
  induction smps generalizing s with
  | nil => rfl
  | cons smp smps ih =>
    rw [List.length_cons] at hroom
    rw [List.map_cons, issue_cons_of_next (exec_push_of_lt hp (by omega) smp), List.foldl_cons]
    exact ih (s := pushed s smp) hp (by change s.wrIdx + 1 + smps.length ≤ windowSize s.cfg; omega)

/-- Samples taken move `WR_IDX` by their number, and touch neither the parameters nor the record. -/
theorem foldl_pushed_frame (smps : List Sample) (s : State) :
    (smps.foldl pushed s).cfg = s.cfg ∧ (smps.foldl pushed s).wrIdx = s.wrIdx + smps.length ∧
      (smps.foldl pushed s).errCode = s.errCode ∧ (smps.foldl pushed s).errCmd = s.errCmd := by
  induction smps generalizing s with
  | nil => exact ⟨rfl, rfl, rfl, rfl⟩
  | cons smp smps ih =>
    obtain ⟨hcfg, hwr, hcode, hcmd⟩ := ih (pushed s smp)
    refine ⟨hcfg, hwr.trans ?_, hcode, hcmd⟩
    change s.wrIdx + 1 + smps.length = s.wrIdx + (smps.length + 1)
    omega

/-- The state before the `RUN` of a window: `WRST` and a `PUSH` for each sample. -/
def window (smps : List Sample) (s : State) : State := smps.foldl pushed (opened s)

section

variable {smps : List Sample} {s : State}

theorem issue_window (hp : paramsOk s.cfg) (hlen : smps.length = windowSize s.cfg) :
    issue (.wrst :: smps.map .push) s = .next (window smps s) := by
  rw [issue_cons_of_next (exec_wrst s)]
  exact issue_push (s := opened s) hp (by rw [opened, respond_wrIdx, windowReset_wrIdx, Nat.zero_add, hlen]; rfl)

theorem window_full (hlen : smps.length = windowSize s.cfg) :
    (window smps s).wrIdx = windowSize (window smps s).cfg := by
  obtain ⟨hcfg, hwr, -⟩ := foldl_pushed_frame smps (opened s)
  rw [window, hcfg, hwr, opened, respond_wrIdx, windowReset_wrIdx, Nat.zero_add, hlen]
  rfl

theorem inv_window (hinv : Inv s) (hlen : smps.length = windowSize s.cfg) : Inv (window smps s) :=
  issue_keeps_inv hinv (issue_window hinv.params hlen)

/-- The whole pipeline: `RUN` writes what the engines find in the window. -/
theorem issue_pipeline (hinv : Inv s) (hlen : smps.length = windowSize s.cfg) {maxCount lag c : Nat} {r : Refinement}
    (h : RunFinds (window smps s) maxCount lag c r) :
    issue (.wrst :: smps.map .push ++ [.run]) s = .next (estimated (window smps s) maxCount lag c r) := by
  have hrun := exec_run_of_finds (inv_window hinv hlen).params (window_full hlen) h
  exact (issue_append_of_next (issue_window hinv.params hlen)).trans (issue_cons_of_next hrun)

end

/-- The same block but for its fault record, at a port with other events to come. -/
def rerecord (code : BitVec 4) (cmd : Word) (events : List HostEvent) (s : State) : State :=
  { s with errCode := code, errCmd := cmd, pending := events }

@[simp] theorem rerecord_cfg (code : BitVec 4) (cmd : Word) (events : List HostEvent) (s : State) :
    (rerecord code cmd events s).cfg = s.cfg := rfl

theorem window_rerecord (smps : List Sample) {s s' : State} (hcfg : s'.cfg = s.cfg) :
    window smps s' = rerecord s'.errCode s'.errCmd s'.pending (window smps s) := by
  have hopened : opened s' = rerecord s'.errCode s'.errCmd s'.pending (opened s) :=
    state_ext_block rfl hcfg rfl rfl
  rw [window, hopened]
  exact List.foldl_hom _ fun _ _ => rfl

theorem estimated_rerecord (code : BitVec 4) (cmd : Word) (events : List HostEvent) (s : State)
    (maxCount lag c : Nat) (r : Refinement) :
    estimated (rerecord code cmd events s) maxCount lag c r =
      rerecord code cmd events (estimated s maxCount lag c r) := by
  have htable : countTable (rerecord code cmd events s) s.cfg.minPeriod = countTable s s.cfg.minPeriod :=
    countTable_congr rfl rfl
  rw [estimated_eq_runWrites, estimated_eq_runWrites, rerecord_cfg, htable]
  cases r <;> rfl

/-- Settles O47: the window of `s'` is that of `s` but for record and events (`window_rerecord`), which neither the
engines (`RunFinds.congr`) nor what `RUN` writes (`estimated_rerecord`) depend on. -/
theorem estimateDependsOnWindowOnly : Obligations.EstimateDependsOnWindowOnly := by
  intro s s' smps hinv hinv' hcfg hlen
  obtain ⟨maxCount, lag, c, r, hfinds⟩ := exists_runFinds (inv_window hinv hlen) (window_full hlen)
  have hwindow := window_rerecord smps hcfg
  have hfinds' : RunFinds (window smps s') maxCount lag c r := by
    rw [hwindow]
    exact hfinds.congr rfl rfl rfl
  have hissue' := issue_pipeline hinv' (hcfg.symm ▸ hlen) hfinds'
  rw [hwindow, estimated_rerecord] at hissue'
  obtain ⟨-, -, hcode, hcmd⟩ := foldl_pushed_frame smps (opened s)
  obtain ⟨-, -, -, -, hcodeRun, hcmdRun, v, hv⟩ := estimated_frame (window smps s) maxCount lag c r
  exact ⟨_, _, v, issue_pipeline hinv hlen hfinds, hissue', hv, hv, hcodeRun.trans hcode, hcmdRun.trans hcmd, rfl⟩

end Sys2Proof.Machine

namespace Sys2Proof.Machine

/-! ### The system commands (45_system.md)

The rules of `RDR` and `LDR` for any register are stated once, by the mark of the register read and by whether the
register can be loaded; the rows of R187 and R191 are instances. -/

/-- Settles O48: the meaning of `NOP` is the response 0, which is all that `respond` writes. -/
theorem nopOnlyResponds : Obligations.NopOnlyResponds := fun _ => rfl

/-! #### `RDR` (45_system.md R187, R188) -/

section

variable {reg : Reg} {s : State}

/-- A register whose mark is set is not the reserved number 11, which holds no state. -/
theorem ne_reserved11_of_regMark (hmark : regMark s reg = true) : reg ≠ .reserved11 := by
  rintro rfl
  cases hmark

theorem exec_rdr_of_regMark (hmark : regMark s reg = true) :
    exec (.rdr reg) s = .next (respond (.ok (regValue s reg)) s) := by
  rw [exec, execRdr, if_neg (ne_reserved11_of_regMark hmark), if_neg (by simp [hmark])]
  rfl

theorem rdr_of_not_regMark (hreg : reg ≠ .reserved11) (hmark : regMark s reg = false) :
    FaultsWith .unwritten (encode (.rdr reg)) s (exec (.rdr reg) s) := by
  rw [exec, execRdr, if_neg hreg, if_pos hmark]
  exact raised_faultsWith _ _ s

theorem rdr_reserved11 (s : State) :
    FaultsWith .regAccess (encode (.rdr .reserved11)) s (exec (.rdr .reserved11) s) := by
  rw [exec, execRdr, if_pos rfl]
  exact raised_faultsWith _ _ s

end

/-- `ERR` reads the recorded cause code, zero extended (45_system.md R187). -/
theorem regValue_err (s : State) : regValue s .err = BitVec.ofNat 32 s.errCode.toNat :=
  (BitVec.ofNat_toNat 32 s.errCode).symm

/-- Settles O49: a register is read where its mark is set (`exec_rdr_of_regMark`), is `Unwritten` where it is not
(`rdr_of_not_regMark`), and the reserved number is refused before any mark is asked for (`rdr_reserved11`). -/
theorem rdrReadsRegister : Obligations.RdrReadsRegister := by
  intro s
  have herr : exec (.rdr .err) s = .next (respond (.ok (BitVec.ofNat 32 s.errCode.toNat)) s) :=
    regValue_err s ▸ exec_rdr_of_regMark rfl
  have hread {reg : Reg} (h : regMark s reg = true) := exec_rdr_of_regMark h
  have hunwritten {reg : Reg} (hreg : reg ≠ .reserved11) (h : regMark s reg = false) := rdr_of_not_regMark hreg h
  exact ⟨herr, hread rfl, hread rfl,
    fun hmaxc => hread hmaxc, fun hmaxc => hunwritten (by decide) hmaxc,
    fun hblag => hread hblag, fun hblag => hunwritten (by decide) hblag,
    fun hclag => hread hclag, fun hclag => hunwritten (by decide) hclag,
    fun htbl => hread htbl, fun htbl => hunwritten (by decide) htbl,
    fun hres => ⟨hread hres, hread hres, hread hres⟩,
    fun hres => ⟨hunwritten (by decide) hres, hunwritten (by decide) hres, hunwritten (by decide) hres⟩,
    rdr_reserved11 s, hread rfl, hread rfl, hread rfl, hread rfl⟩

/-! #### `LDR` (45_system.md R191, R192) -/

section

variable {reg : Reg}

theorem loadable_iff : loadable reg = true ↔ reg = .maxCount ∨ reg = .bestLag ∨ reg = .corrLag := by
  cases reg <;> decide

theorem immWord_eq_ofNat (imm : BitVec 24) : immWord imm = BitVec.ofNat 32 imm.toNat :=
  (BitVec.ofNat_toNat 32 imm).symm

theorem exec_ldr_of_loadable (h : loadable reg = true) (imm : BitVec 24) (s : State) :
    exec (.ldr reg imm) s = .next (respond (.ok 0#32) (loadRegister reg (BitVec.ofNat 32 imm.toNat) s)) := by
  rw [exec, execLdr, if_neg (by simp [h]), immWord_eq_ofNat]
  rfl

/-- A loaded register holds the value loaded, whatever response follows (45_system.md R192). -/
theorem loadRegister_holds (h : loadable reg = true) (v : Word) (r : Response) (s : State) :
    regMark (respond r (loadRegister reg v s)) reg = true ∧ regValue (respond r (loadRegister reg v s)) reg = v := by
  rcases loadable_iff.mp h with rfl | rfl | rfl
  · exact ⟨rfl, rfl⟩
  · exact ⟨rfl, rfl⟩
  · exact ⟨rfl, rfl⟩

end

/-- Settles O51: a register that can be loaded takes the value and its mark (`exec_ldr_of_loadable`), so that `RDR`
returns it (`loadRegister_holds`); the others are refused by `ldr_of_not_loadable`. -/
theorem ldrLoadsHandOverRegister : Obligations.LdrLoadsHandOverRegister := by
  refine fun imm s => ⟨exec_ldr_of_loadable rfl imm s, exec_ldr_of_loadable rfl imm s, exec_ldr_of_loadable rfl imm s,
    fun reg hreg => ?readBack, fun reg hmax hbest hcorr => ?refused⟩
  case readBack =>
    have hload := loadable_iff.mpr hreg
    obtain ⟨hmark, hvalue⟩ := loadRegister_holds hload (BitVec.ofNat 32 imm.toNat) (.ok 0#32) s
    exact ⟨_, _, exec_ldr_of_loadable hload imm s, exec_rdr_of_regMark hmark, by rw [respond_rsp, hvalue]⟩
  case refused =>
    have hload : ¬ loadable reg = true := by simp [loadable_iff, hmax, hbest, hcorr]
    exact ldr_of_not_loadable (Bool.eq_false_iff.mpr hload) imm s

end Sys2Proof.Machine

namespace Sys2Proof.Machine

/-! ### Faults (60_exceptions.md)

Of the fault conditions a command meets, one has the lowest code (`meets_nothing_or_lowest`). With it the command faults
(`exec_of_lowestMet`); where none is met the command does its `body` (`exec_of_meets_nothing`). No condition depends on
the fault record (`meets_withRecord`), and no body but that of the three `RDR` that show it (`body_withRecord`). -/

/-! #### The condition of lowest code (60_exceptions.md R206) -/

/-- `c` is the condition of lowest code among those that `i` meets in `s`. -/
structure LowestMet (i : Instr) (s : State) (c : Cause) : Prop where
  met : meets i s c = true
  lowest : ∀ c', meets i s c' = true → (code c).toNat ≤ (code c').toNat

section

variable {i : Instr} {s : State} {c c' : Cause}

theorem LowestMet.not_met_below (h : LowestMet i s c) (hlt : (code c').toNat < (code c).toNat) :
    meets i s c' = false := by
  rw [Bool.eq_false_iff]
  exact fun hmet => absurd (h.lowest c' hmet) (Nat.not_le.mpr hlt)

theorem meets_nothing_or_lowest (i : Instr) (s : State) : (∀ c, meets i s c = false) ∨ ∃ c, LowestMet i s c := by
  by_cases hmet : ∃ c, meets i s c = true
  · obtain ⟨c, hc, hmin⟩ := (measure fun c => (code c).toNat).wf.has_min {c | meets i s c = true} hmet
    exact .inr ⟨c, hc, fun c' hc' => Nat.not_lt.mp (hmin c' hc')⟩
  · exact .inl fun c => Bool.eq_false_iff.mpr fun hc => hmet ⟨c, hc⟩

end

theorem meets_hcorr_unwritten (s : State) : meets .hcorr s .unwritten = !correctionReady s := by
  change (!s.vMaxc || !s.vBlag || !s.tblValid || decide (s.cfg.minPeriod < s.tblLo)) = _
  simp [correctionReady, ← decide_not]

theorem meets_tget_unwritten_iff (idx : Nat) (s : State) :
    meets (.tget idx) s .unwritten = true ↔ s.tblValid = false ∨ idx < s.tblLo := by
  change (!s.tblValid || decide (idx < s.tblLo)) = true ↔ _
  simp

theorem meets_windowShort_eq_false_iff {i : Instr} (hi : i = .refine ∨ i = .run) (s : State) :
    meets i s .windowShort = false ↔ s.wrIdx = windowSize s.cfg := by
  rcases hi with rfl | rfl <;> exact decide_eq_false_iff_not.trans not_not

/-! #### A command that meets a condition -/

section

variable {i : Instr} {s : State} {c : Cause}

theorem correctionReady_of_not_met (h : meets .hcorr s .unwritten = false) : correctionReady s = true := by
  rwa [meets_hcorr_unwritten, Bool.not_eq_false'] at h

theorem faultsWith_of_raised {cw : Word} {o : Out} (h : o = raised c cw s) : FaultsWith c cw s o :=
  h ▸ raised_faultsWith c cw s

theorem fault_of_regAccess (hmet : meets i s .regAccess = true) : FaultsWith .regAccess (encode i) s (exec i s) := by
  cases i with
  | rdr reg =>
    obtain rfl : reg = .reserved11 := eq_of_beq hmet
    exact rdr_reserved11 s
  | ldr reg imm =>
    have hload : (!loadable reg) = true := hmet
    exact ldr_of_not_loadable (by simpa using hload) imm s
  | _ => cases hmet

theorem fault_of_indexRange (hmet : meets i s .indexRange = true) :
    FaultsWith .indexRange (encode i) s (exec i s) := by
  cases i with
  | bget | bset | wget | tget => exact faultsWith_of_raised (if_pos (of_decide_eq_true hmet))
  | _ => cases hmet

theorem fault_of_windowFull (hmet : meets i s .windowFull = true) :
    FaultsWith .windowFull (encode i) s (exec i s) := by
  cases i with
  | push smp => exact faultsWith_of_raised (exec_push_of_full (of_decide_eq_true hmet) smp)
  | _ => cases hmet

theorem fault_of_windowShort (hmet : meets i s .windowShort = true) :
    FaultsWith .windowShort (encode i) s (exec i s) := by
  cases i with
  | refine => exact (refinePreconditions s).1 (of_decide_eq_true hmet)
  | run => exact faultsWith_of_raised (exec_run_of_short (of_decide_eq_true hmet))
  | _ => cases hmet

/-- What is checked before `Unwritten`: the register number, the lag, the window. -/
theorem fault_of_unwritten (h : LowestMet i s .unwritten) : FaultsWith .unwritten (encode i) s (exec i s) := by
  have hmet := h.met
  cases i with
  | rdr reg =>
    have hreg : (reg == .reserved11) = false := h.not_met_below (c' := .regAccess) (by decide)
    have hmark : (!regMark s reg) = true := hmet
    exact rdr_of_not_regMark (by simpa using hreg) (by simpa using hmark)
  | tget idx =>
    have hin : ¬ halfWindow s.cfg ≤ idx := of_decide_eq_false (h.not_met_below (c' := .indexRange) (by decide))
    refine faultsWith_of_raised ?_
    rw [exec, execTget, if_neg hin, if_pos ((meets_tget_unwritten_iff idx s).mp hmet)]
  | hcorr =>
    rw [meets_hcorr_unwritten, Bool.not_eq_true'] at hmet
    exact faultsWith_of_raised (if_pos hmet)
  | refine =>
    have hfull := (meets_windowShort_eq_false_iff (.inl rfl) s).mp (h.not_met_below (by decide))
    have hmark : (!s.vClag) = true := hmet
    exact (refinePreconditions s).2.1 hfull (by simpa using hmark)
  | _ => cases hmet

/-- What is checked before `OperandRange`: of `HCORR` and `REFINE`, that their inputs are there. -/
theorem fault_of_operandRange (h : LowestMet i s .operandRange) :
    FaultsWith .operandRange (encode i) s (exec i s) := by
  have hmet := h.met
  cases i with
  | acorr idx => exact faultsWith_of_raised (if_pos (of_decide_eq_true hmet))
  | hcorr =>
    have hready := correctionReady_of_not_met (h.not_met_below (by decide))
    obtain ⟨hmaxc, hblag, hvalid, hlo⟩ := (correctionReady_iff s).mp hready
    exact (hcorrPreconditions s).2 hmaxc hblag hvalid hlo (of_decide_eq_true hmet)
  | refine =>
    have hfull := (meets_windowShort_eq_false_iff (.inl rfl) s).mp (h.not_met_below (by decide))
    have hmark : (!s.vClag) = false := h.not_met_below (c' := .unwritten) (by decide)
    exact (refinePreconditions s).2.2 hfull (by simpa using hmark) (eq_of_beq hmet)
  | _ => cases hmet

/-- The table of 60_exceptions.md R201, row by row: a command faults with the lowest code it meets. -/
theorem exec_of_lowestMet (h : LowestMet i s c) : FaultsWith c (encode i) s (exec i s) := by
  cases c with
  | illegalCmd => have hmet := h.met; cases i <;> cases hmet
  | regAccess => exact fault_of_regAccess h.met
  | indexRange => exact fault_of_indexRange h.met
  | windowFull => exact fault_of_windowFull h.met
  | windowShort => exact fault_of_windowShort h.met
  | unwritten => exact fault_of_unwritten h
  | operandRange => exact fault_of_operandRange h

end

/-! #### A command that meets no condition -/

/-- Where the invariant holds, the accesses of a command that meets no condition find what they look for. -/
theorem exec_succeeds {i : Instr} {s : State} (hinv : Inv s) (hnone : ∀ c, meets i s c = false) :
    Succeeds (exec i s) := by
  have hp := hinv.params
  cases i with
  | nop => exact ⟨_, _, rfl, rfl⟩
  | wrst => exact ⟨_, _, rfl, rfl⟩
  | zc smp => exact ⟨_, _, rfl, rfl⟩
  | push smp =>
    have hroom : s.wrIdx ≠ windowSize s.cfg := of_decide_eq_false (hnone .windowFull)
    exact ⟨_, _, exec_push_of_lt hp (Nat.lt_of_le_of_ne hinv.samples.1 hroom) smp, rfl⟩
  | bget idx =>
    have hidx : ¬ windowSize s.cfg ≤ idx := of_decide_eq_false (hnone .indexRange)
    exact ⟨_, _, exec_bget_of_lt hp (Nat.not_le.mp hidx), rfl⟩
  | bset idx v =>
    have hidx : ¬ windowSize s.cfg ≤ idx := of_decide_eq_false (hnone .indexRange)
    exact ⟨_, _, exec_bset_of_lt hp (Nat.not_le.mp hidx) v, rfl⟩
  | acorr idx =>
    have hidx : ¬ halfWindow s.cfg ≤ idx := of_decide_eq_false (hnone .operandRange)
    obtain ⟨maxCount, lag, -, hexec⟩ := exec_acorr_of_lt hp (Nat.not_le.mp hidx)
    exact ⟨_, _, hexec, rfl⟩
  | tget idx =>
    have hidx : ¬ halfWindow s.cfg ≤ idx := of_decide_eq_false (hnone .indexRange)
    have hwritten : ¬ (s.tblValid = false ∨ idx < s.tblLo) := by
      rw [← meets_tget_unwritten_iff, hnone]
      decide
    obtain ⟨hvalid, hlo⟩ := not_or.mp hwritten
    have hvalid : s.tblValid = true := by simpa using hvalid
    have hlo : s.tblLo ≤ idx := Nat.not_lt.mp hlo
    exact ⟨_, _, exec_tget_of_value hvalid hlo (readTable_of_mem hinv.table hvalid hlo (Nat.not_le.mp hidx)), rfl⟩
  | hcorr =>
    have hlag : ¬ halfWindow s.cfg ≤ s.bestLag.toNat := of_decide_eq_false (hnone .operandRange)
    obtain ⟨hmaxc, hblag, hvalid, hlo⟩ := (correctionReady_iff s).mp (correctionReady_of_not_met (hnone .unwritten))
    obtain ⟨c, -, hexec, -⟩ :=
      hcorrTakesLargestPassingDivisor s hinv hmaxc hblag hvalid hlo (Nat.not_le.mp hlag)
    exact ⟨_, _, hexec, rfl⟩
  | refine =>
    have hfull := (meets_windowShort_eq_false_iff (.inl rfl) s).mp (hnone .windowShort)
    have hmark : (!s.vClag) = false := hnone .unwritten
    have hlag : (s.corrLag == 0#32) = false := hnone .operandRange
    obtain ⟨r, hr⟩ := exists_refineAt hinv.samples hfull s.corrLag.toNat
    exact ⟨_, _, exec_refine_of_refineAt hfull (by simpa using hmark) (by simpa using hlag) hr, writeResult_rsp r s⟩
  | run =>
    have hfull := (meets_windowShort_eq_false_iff (.inr rfl) s).mp (hnone .windowShort)
    obtain ⟨maxCount, lag, c, r, hfinds⟩ := exists_runFinds hinv hfull
    exact ⟨_, _, exec_run_of_finds hp hfull hfinds, writeResult_rsp r _⟩
  | rdr reg =>
    have hmark : (!regMark s reg) = false := hnone .unwritten
    exact ⟨_, _, exec_rdr_of_regMark (by simpa using hmark), rfl⟩
  | ldr reg imm =>
    have hload : (!loadable reg) = false := hnone .regAccess
    exact ⟨_, _, exec_ldr_of_loadable (by simpa using hload) imm s, rfl⟩
  | wget idx =>
    have hidx : ¬ wordCount s.cfg ≤ idx := of_decide_eq_false (hnone .indexRange)
    exact ⟨_, _, exec_wget_of_lt (Nat.not_le.mp hidx), rfl⟩

/-- Settles O14: the codes by evaluation, the command that meets nothing by `exec_succeeds`, the one that meets some
condition by `exec_of_lowestMet`. -/
theorem faultIsLowestCodeMet : Obligations.FaultIsLowestCodeMet := by
  refine ⟨by decide, fun c => ?port, fun v => ⟨rfl, rfl⟩, fun i s hinv => ⟨exec_succeeds hinv, ?faults⟩⟩
  case port => cases c <;> exact ⟨rfl, rfl⟩
  case faults => exact fun c hmet hlowest => exec_of_lowestMet ⟨hmet, hlowest⟩

/-! #### What a command does where it meets no condition -/

/-- The meaning of a command without its checks: what it does where it meets no fault condition. -/
def body : Instr → State → Except Fault State
  | .nop, s => .ok (respond (.ok 0#32) s)
  | .wrst, s => .ok (respond (.ok 0#32) (windowReset s))
  | .zc smp, s => .ok (respond (.ok (bitWord (zcNext s.latched smp))) (setLatched (zcNext s.latched smp) s))
  | .push smp, s => respond (.ok (bitWord (zcNext s.latched smp))) <$> takeSample smp s
  | .bget idx, s => (fun b => respond (.ok (bitWord b)) s) <$> readBit s idx
  | .bset idx v, s => respond (.ok 0#32) <$> writeBit s idx v
  | .acorr idx, s => (fun x => respond (.ok (extremesWord x.2.1 x.2.2)) x.1) <$> autocorrelate idx s
  | .tget idx, s => (fun c => respond (.ok (countWord c)) s) <$> readTable s idx
  | .hcorr, s => (fun x => respond (.ok (BitVec.ofNat 32 x.2)) x.1) <$> applyCorrection s
  | .refine, s => applyRefinement s
  | .run, s => do
    let correlated ← autocorrelate s.cfg.minPeriod s
    let corrected ← applyCorrection correlated.1
    applyRefinement corrected.1
  | .rdr reg, s => .ok (respond (.ok (regValue s reg)) s)
  | .ldr reg imm, s => .ok (respond (.ok 0#32) (loadRegister reg (immWord imm) s))
  | .wget idx, s => (fun w => respond (.ok w) s) <$> readBits s idx

theorem exec_of_meets_nothing {i : Instr} {s : State} (hnone : ∀ c, meets i s c = false) :
    exec i s = finish (body i s) := by
  cases i with
  | nop | wrst | zc => rfl
  | bget | bset | wget => exact if_neg (of_decide_eq_false (hnone .indexRange))
  | acorr => exact if_neg (of_decide_eq_false (hnone .operandRange))
  | push smp =>
    have hroom : ¬ winFull s = true := by
      rw [winFull_iff]
      exact of_decide_eq_false (hnone .windowFull)
    exact if_neg hroom
  | tget idx =>
    have hwritten : ¬ (s.tblValid = false ∨ idx < s.tblLo) := by
      rw [← meets_tget_unwritten_iff, hnone]
      decide
    exact (if_neg (of_decide_eq_false (hnone .indexRange))).trans (if_neg hwritten)
  | hcorr =>
    have hready := correctionReady_of_not_met (hnone .unwritten)
    exact (if_neg (by simp [hready])).trans (if_neg (of_decide_eq_false (hnone .operandRange)))
  | refine =>
    have hwin := (winFull_iff s).mpr ((meets_windowShort_eq_false_iff (.inl rfl) s).mp (hnone .windowShort))
    have hmark : (!s.vClag) = false := hnone .unwritten
    have hlag : (s.corrLag == 0#32) = false := hnone .operandRange
    rw [exec, execRefine, if_neg (by simp [hwin]), if_neg (by simpa using hmark), if_neg (by simpa using hlag), body]
  | run =>
    have hwin := (winFull_iff s).mpr ((meets_windowShort_eq_false_iff (.inr rfl) s).mp (hnone .windowShort))
    exact if_neg (by simp [hwin])
  | rdr reg =>
    have hmark : (!regMark s reg) = false := hnone .unwritten
    have hmark : regMark s reg = true := by simpa using hmark
    rw [exec_rdr_of_regMark hmark, body, finish_ok]
  | ldr reg imm =>
    have hload : (!loadable reg) = false := hnone .regAccess
    exact if_neg (by simpa using hload)

/-! #### The body and the fault record (60_exceptions.md R205) -/

/-- The same state with another fault record. -/
def withRecord (e : BitVec 4) (cw : Word) (s : State) : State := { s with errCode := e, errCmd := cw }

/-- The commands that show the record (60_exceptions.md R205). -/
def showsRecord (i : Instr) : Prop := i = .rdr .status ∨ i = .rdr .err ∨ i = .rdr .errCmd

section

variable (e : BitVec 4) (cw : Word) (s : State)

theorem meets_withRecord (i : Instr) (c : Cause) : meets i (withRecord e cw s) c = meets i s c := by
  cases c <;> cases i <;> rfl

@[simp] theorem withRecord_cfg : (withRecord e cw s).cfg = s.cfg := rfl

theorem writeBits_withRecord (a : Nat) (w : Word) :
    writeBits (withRecord e cw s) a w = withRecord e cw <$> writeBits s a w := by
  rw [writeBits, writeBits, withRecord_cfg]
  split <;> rfl

theorem writeBit_withRecord (i : Nat) (v : Bool) :
    writeBit (withRecord e cw s) i v = withRecord e cw <$> writeBit s i v := by
  rw [writeBit, writeBit, readBits_congr (s := withRecord e cw s) (t := s) rfl rfl]
  cases readBits s (wordOfBit i) with
  | error => rfl
  | ok w => exact writeBits_withRecord e cw s _ _

theorem appendSig_withRecord (v : Sample) :
    appendSig (withRecord e cw s) v = withRecord e cw <$> appendSig s v := by
  rw [appendSig, appendSig, withRecord_cfg, show (withRecord e cw s).wrIdx = s.wrIdx from rfl]
  split <;> rfl

theorem takeSample_withRecord (smp : Sample) :
    takeSample smp (withRecord e cw s) = withRecord e cw <$> takeSample smp s := by
  have hbit := writeBit_withRecord e cw (setLatched (zcNext s.latched smp) s) s.wrIdx (zcNext s.latched smp)
  change writeBit (withRecord e cw (setLatched (zcNext s.latched smp) s)) s.wrIdx (zcNext s.latched smp) >>= _ = _
  rw [hbit, takeSample]
  cases writeBit (setLatched (zcNext s.latched smp) s) s.wrIdx (zcNext s.latched smp) with
  | error => rfl
  | ok u => exact appendSig_withRecord e cw u smp

theorem autocorrelate_withRecord (start : Nat) :
    autocorrelate start (withRecord e cw s) = Prod.map (withRecord e cw) id <$> autocorrelate start s := by
  rw [autocorrelate, autocorrelate, countsAt_congr (s := withRecord e cw s) (t := s) rfl rfl]
  change countsAt s (lagsFrom s start) >>= _ = _
  cases countsAt s (lagsFrom s start) with
  | error => rfl
  | ok counts =>
    simp only [ok_bind]
    cases (extremes counts).best <;> rfl

theorem applyCorrection_withRecord :
    applyCorrection (withRecord e cw s) = Prod.map (withRecord e cw) id <$> applyCorrection s := by
  rw [applyCorrection, applyCorrection, correct_congr (s := withRecord e cw s) (t := s) rfl rfl]
  change correct s s.maxCount.toNat s.bestLag.toNat >>= _ = _
  cases correct s s.maxCount.toNat s.bestLag.toNat <;> rfl

theorem applyRefinement_withRecord :
    applyRefinement (withRecord e cw s) = withRecord e cw <$> applyRefinement s := by
  rw [applyRefinement, applyRefinement, refineAt_congr (s := withRecord e cw s) (t := s) rfl rfl]
  change refineAt s s.corrLag.toNat >>= _ = _
  cases refineAt s s.corrLag.toNat with
  | error => rfl
  | ok r => cases r <;> rfl

/-- The three engines of `RUN`, one after the other. -/
theorem body_run_withRecord : body .run (withRecord e cw s) = withRecord e cw <$> body .run s := by
  change autocorrelate s.cfg.minPeriod (withRecord e cw s) >>= _ = _
  rw [autocorrelate_withRecord, body]
  cases autocorrelate s.cfg.minPeriod s with
  | error => rfl
  | ok x =>
    change applyCorrection (withRecord e cw x.1) >>= _ = withRecord e cw <$> (applyCorrection x.1 >>= _)
    rw [applyCorrection_withRecord]
    cases applyCorrection x.1 with
    | error => rfl
    | ok y => exact applyRefinement_withRecord e cw y.1

theorem regValue_withRecord {reg : Reg} (h : ¬ showsRecord (.rdr reg)) :
    regValue (withRecord e cw s) reg = regValue s reg := by
  cases reg with
  | status => exact absurd (.inl rfl) h
  | err => exact absurd (.inr (.inl rfl)) h
  | errCmd => exact absurd (.inr (.inr rfl)) h
  | _ => rfl

/-- A body neither reads nor writes the record: with another record it does the same beside that record. -/
theorem body_withRecord {i : Instr} (h : ¬ showsRecord i) :
    body i (withRecord e cw s) = withRecord e cw <$> body i s := by
  cases i with
  | nop | wrst | zc => rfl
  | push smp =>
    rw [body, body, takeSample_withRecord]
    cases takeSample smp s <;> rfl
  | bget idx =>
    rw [body, body, readBit_congr (s := withRecord e cw s) (t := s) rfl rfl]
    cases readBit s idx <;> rfl
  | bset idx v =>
    rw [body, body, writeBit_withRecord]
    cases writeBit s idx v <;> rfl
  | acorr idx =>
    rw [body, body, autocorrelate_withRecord]
    cases autocorrelate idx s <;> rfl
  | tget idx =>
    rw [body, body, readTable_congr (s := withRecord e cw s) (t := s) rfl rfl]
    cases readTable s idx <;> rfl
  | hcorr =>
    rw [body, body, applyCorrection_withRecord]
    cases applyCorrection s <;> rfl
  | refine => exact applyRefinement_withRecord e cw s
  | run => exact body_run_withRecord e cw s
  | rdr reg =>
    rw [body, body, regValue_withRecord e cw s h]
    rfl
  | ldr reg imm => cases reg <;> rfl
  | wget idx =>
    rw [body, body, readBits_congr (s := withRecord e cw s) (t := s) rfl rfl]
    cases readBits s idx <;> rfl

end

/-- A body leaves the record: the state with its own record is itself, so `body_withRecord` gives the state after the
record of the state before. -/
theorem body_keeps_record {i : Instr} {s t : State} (h : body i s = .ok t) :
    t.errCode = s.errCode ∧ t.errCmd = s.errCmd := by
  by_cases hshows : showsRecord i
  · rcases hshows with rfl | rfl | rfl <;> cases h <;> exact ⟨rfl, rfl⟩
  · have hbody := body_withRecord s.errCode s.errCmd s hshows
    rw [show withRecord s.errCode s.errCmd s = s from rfl, h] at hbody
    have ht : t = withRecord s.errCode s.errCmd t := Except.ok.inj hbody
    exact ⟨congrArg (·.errCode) ht, congrArg (·.errCmd) ht⟩

/-! #### A recorded fault stays (60_exceptions.md R205) -/

theorem raise_keeps_record {c : Cause} {cw : Word} {s : State} (h : s.errCode ≠ 0#4) :
    (raise c cw s).errCode = s.errCode ∧ (raise c cw s).errCmd = s.errCmd := by
  rw [raise, respond_errCode, respond_errCmd, record_errCode, record_errCmd, if_neg h, if_neg h]
  exact ⟨rfl, rfl⟩

theorem exec_keeps_record {i : Instr} {s t : State} (hrecorded : s.errCode ≠ 0#4) (h : exec i s = .next t) :
    t.errCode = s.errCode ∧ t.errCmd = s.errCmd := by
  rcases meets_nothing_or_lowest i s with hnone | ⟨c, hlow⟩
  · rw [exec_of_meets_nothing hnone, finish_eq_next] at h
    exact body_keeps_record h
  · rw [faultsWith_eq (exec_of_lowestMet hlow)] at h
    cases h
    exact raise_keeps_record hrecorded

/-- Settles O15, by cases on the host's next event, of which a reset is ruled out: a command keeps the record by
`exec_keeps_record`, a word that is no command by `raise_keeps_record`. -/
theorem recordKeepsFirstFault : Obligations.RecordKeepsFirstFault := by
  intro s t hrecorded hhead h
  cases hp : s.pending with
  | nil =>
    rw [step_of_no_event hp] at h
    cases h
    exact ⟨rfl, rfl⟩
  | cons event rest =>
    cases event with
    | rst => exact absurd (by rw [hp]; rfl) hhead
    | cmd cw =>
      cases hd : decode cw with
      | ok i =>
        rw [step_of_command hp hd] at h
        exact exec_keeps_record (s := { s with pending := rest }) hrecorded h
      | error e =>
        rw [step_of_illegal hp hd] at h
        cases h
        exact raise_keeps_record (s := { s with pending := rest }) hrecorded

/-! #### A recorded fault has no effect (60_exceptions.md R205) -/

/-- A fault leaves the same state beside the record, whatever stood in the record. -/
theorem raise_withRecord (c : Cause) (cw' : Word) (e : BitVec 4) (cw : Word) (s : State) :
    withRecord (raise c cw' s).errCode (raise c cw' s).errCmd (raise c cw' (withRecord e cw s)) = raise c cw' s := by
  apply state_ext <;> simp [withRecord, raise]

/-- Settles O16: the conditions met are the same (`meets_withRecord`); where there is one, the same fault is raised, and
where there is none, the body does the same (`body_withRecord`). -/
theorem recordHasNoEffect : Obligations.RecordHasNoEffect := by
  intro i s t e cw hstatus herr herrCmd h
  have hshows : ¬ showsRecord i := by simp [showsRecord, hstatus, herr, herrCmd]
  change ∃ t', exec i (withRecord e cw s) = .next t' ∧ withRecord t.errCode t.errCmd t' = t
  rcases meets_nothing_or_lowest i s with hnone | ⟨c, hlow⟩
  case inl =>
    rw [exec_of_meets_nothing hnone, finish_eq_next] at h
    have hnone' : ∀ c, meets i (withRecord e cw s) c = false := by simpa only [meets_withRecord] using hnone
    exact ⟨withRecord e cw t, by rw [exec_of_meets_nothing hnone', body_withRecord e cw s hshows, h]; rfl, rfl⟩
  case inr =>
    rw [faultsWith_eq (exec_of_lowestMet hlow)] at h
    cases h
    have hlow' : LowestMet i (withRecord e cw s) c := by
      obtain ⟨hmet, hlowest⟩ := hlow
      exact ⟨by rwa [meets_withRecord], by simpa only [meets_withRecord] using hlowest⟩
    exact ⟨_, faultsWith_eq (exec_of_lowestMet hlow'), raise_withRecord c _ e cw s⟩

end Sys2Proof.Machine

namespace Sys2Proof.Machine

/-! ### Reset, first use and hazards (70_reset_and_hazards.md)

The state after hardware reset (`hardReset_reads`), the sets a build may have in the words of R7 (`paramsOk_iff`), that
a command of an invariant state ends (`exec_ends`), which stream bits a count looks at (`bitCount_eq_of_streamBit_eq`),
and what each command does in the reset state of a build. -/

/- One theorem at a time, as in the tests. -/
set_option Elab.async false

/-- Settles O8: `step_of_no_event`. -/
theorem idleWithoutEvents : Obligations.IdleWithoutEvents := fun _ => step_of_no_event

/-! #### Hardware reset (70_reset_and_hazards.md R230) -/

/-- The memories of a block in its reset state: every word is 0, no sample and no count holds a value. -/
theorem hardReset_reads (s : State) :
    (∀ a < wordCount s.cfg, readBits (hardReset s) a = .ok 0#32) ∧
    (∀ i < windowSize s.cfg, readSig (hardReset s) i = .error (.noValue .sig i)) ∧
    ∀ p < halfWindow s.cfg, readTable (hardReset s) p = .error (.noValue .table p) :=
  ⟨fun _ ha => readBits_of_lt (s := hardReset s) ha, fun _ hi => if_pos hi, fun _ hp => if_pos hp⟩

/-- `WRST` leaves the fault record, hardware reset clears it; the response is that of `WRST` or none. -/
theorem windowReset_without_record (s : State) :
    { respond (.ok 0#32) (windowReset s) with errCode := 0#4, errCmd := 0#32, rsp := none } = hardReset s := rfl

/-- Settles O9: the step is `hardReset` on the state without the event, whose memories read as `hardReset_reads` says;
the other elements are those of `Block.reset`, and `windowReset_without_record` compares the state with that after `WRST`.
-/
theorem resetGivesResetState : Obligations.ResetGivesResetState := by
  intro s rest hpending
  obtain ⟨hbits, hsig, htable⟩ := hardReset_reads { s with pending := rest }
  exact ⟨_, step_of_reset hpending, rfl, hbits, rfl, hsig, rfl, rfl, htable, rfl, rfl, rfl, rfl, rfl, rfl, rfl, rfl,
    rfl, rfl, rfl, rfl, rfl, rfl, rfl, rfl, _, exec_wrst _, windowReset_without_record _⟩

theorem inv_resetOf {p : Params} (hp : paramsOk p) : Inv (State.resetOf p) := inv_hardReset (s := State.resetOf p) hp

/-- Settles O10: a reset state is what hardware reset makes of any state of the build. -/
theorem resetMeetsInvariant : Obligations.ResetMeetsInvariant := fun _ => inv_resetOf

/-! #### The check of the parameters (70_reset_and_hazards.md R234) -/

/-- The window of a build with a period of at least 1 has two equal halves: it is a power of two and not 1. -/
theorem windowSize_eq_two_mul_halfWindow {p : Params} (h : 1 ≤ p.maxPeriod) : windowSize p = 2 * halfWindow p := by
  obtain ⟨j, hsize, hreach, -⟩ := powerOfTwoFrom_spec (2 * p.maxPeriod)
  cases j with
  | zero => omega
  | succ j => rw [halfWindow, windowSize, hsize, pow_succ]; omega

/-- The bounds as 70_reset_and_hazards.md R234 has them, with the window in place of its half. -/
theorem paramsOk_iff (p : Params) :
    paramsOk p ↔ 16 ≤ p.sampleRate ∧ p.sampleRate < 2 ^ 20 ∧ 1 ≤ p.minPeriod ∧ p.minPeriod ≤ p.maxPeriod ∧
      2 * p.minPeriod < windowSize p ∧ 33 ≤ p.maxPeriod ∧ p.maxPeriod ≤ 32768 := by
  by_cases hmax : 1 ≤ p.maxPeriod
  · have hhalf : 2 * p.minPeriod < windowSize p ↔ p.minPeriod < halfWindow p := by
      rw [windowSize_eq_two_mul_halfWindow hmax]
      omega
    rw [hhalf]
  · omega

/-- Settles O13: `instantiate` asks for `paramsOk`, which `paramsOk_iff` writes out. -/
theorem buildChecksParameters : Obligations.BuildChecksParameters := fun p =>
  ⟨fun h => if_pos ((paramsOk_iff p).mpr h), fun h => if_neg fun hp => h ((paramsOk_iff p).mp hp)⟩

/-! #### No command stops the block (70_reset_and_hazards.md R246) -/

/-- A command that meets no fault condition succeeds, and one that meets some answers the fault: either way it ends. -/
theorem exec_ends {s : State} (hinv : Inv s) (i : Instr) : ∃ t, exec i s = .next t := by
  rcases meets_nothing_or_lowest i s with hnone | ⟨c, hlow⟩
  · obtain ⟨t, _, hexec, -⟩ := exec_succeeds hinv hnone
    exact ⟨t, hexec⟩
  · obtain ⟨t, hexec, -⟩ := exec_of_lowestMet hlow
    exact ⟨t, hexec⟩

/-- Settles O12, by cases on the host's next event: a command ends by `exec_ends`, and no event, a reset and a word that
is no command have an answer in every state. -/
theorem invariantStatesNeverStop : Obligations.InvariantStatesNeverStop := by
  intro s hinv
  cases hpending : s.pending with
  | nil => exact ⟨_, step_of_no_event hpending⟩
  | cons event rest =>
    cases event with
    | rst => exact ⟨_, step_of_reset hpending⟩
    | cmd cw =>
      cases hd : decode cw with
      | ok i =>
        rw [step_of_command hpending hd]
        exact exec_ends (inv_setPending hinv rest) i
      | error e => exact ⟨_, step_of_illegal hpending hd⟩

/-! #### The last 33 stream bits (70_reset_and_hazards.md R242) -/

/-- A count looks at the stream bits below `WINDOW_SIZE - 33` only: at position `n` and at `n + pos`, which
`countBounds` keeps below. -/
theorem bitCount_eq_of_streamBit_eq {s s' : State} {pos : Nat} (hp : paramsOk s.cfg) (hcfg : s'.cfg = s.cfg)
    (hbits : ∀ i < windowSize s.cfg - 33, streamBit s i = streamBit s' i) (hpos : pos < halfWindow s.cfg) :
    bitCount s pos = bitCount s' pos := by
  obtain ⟨-, -, hlast⟩ := countBounds s pos hp
  have hsize := windowSize_bounds hp
  rw [bitCount, bitCount, hcfg]
  refine List.countP_congr fun n hn => ?_
  have hle := hlast hpos n (List.mem_range.mp hn)
  rw [hbits n (by omega), hbits (n + pos) (by omega)]

/-- Settles O27: the engine computes the bit-level count of either state (`wordLevelCountIsBitLevelCount`), and the two
are equal by `bitCount_eq_of_streamBit_eq`. -/
theorem lastStreamBitsDoNotCount : Obligations.LastStreamBitsDoNotCount := by
  intro s s' pos hp hcfg hbits hpos
  refine ⟨bitCount s pos, wordLevelCountIsBitLevelCount s pos hp hpos, ?_⟩
  rw [bitCount_eq_of_streamBit_eq hp hcfg hbits hpos]
  rw [← hcfg] at hp hpos
  exact wordLevelCountIsBitLevelCount s' pos hp hpos

/-! #### The first command after reset (70_reset_and_hazards.md R233) -/

/-- No sample is there yet, so the window has room and is not full. -/
theorem resetOf_wrIdx_lt (p : Params) : (State.resetOf p).wrIdx < windowSize (State.resetOf p).cfg := windowSize_pos p

theorem winFull_resetOf (p : Params) : winFull (State.resetOf p) = false :=
  (winFull_eq_false_iff _).mpr (resetOf_wrIdx_lt p).ne

/-- Every flag is 0 in the reset state, and with them `STATUS` (10_state.md R31, R40). -/
theorem statusWord_resetOf (p : Params) : statusWord (State.resetOf p) = 0#32 := by
  simp [statusWord, winFull_resetOf, errFlag, bitWord]

section

variable {p : Params} {idx : Nat}

theorem first_zc_succeeds (smp : Sample) : Succeeds (exec (.zc smp) (State.resetOf p)) := ⟨_, _, rfl, rfl⟩

theorem first_push_succeeds (hp : paramsOk p) (smp : Sample) : Succeeds (exec (.push smp) (State.resetOf p)) :=
  ⟨_, _, exec_push_of_lt (s := State.resetOf p) hp (resetOf_wrIdx_lt p) smp, rfl⟩

theorem first_bget_succeeds (hp : paramsOk p) (h : idx < windowSize p) :
    Succeeds (exec (.bget idx) (State.resetOf p)) :=
  ⟨_, _, exec_bget_of_lt (s := State.resetOf p) hp h, rfl⟩

theorem first_bset_succeeds (hp : paramsOk p) (h : idx < windowSize p) (v : Bool) :
    Succeeds (exec (.bset idx v) (State.resetOf p)) :=
  ⟨_, _, exec_bset_of_lt (s := State.resetOf p) hp h v, rfl⟩

theorem first_wget_succeeds (h : idx < wordCount p) : Succeeds (exec (.wget idx) (State.resetOf p)) :=
  ⟨_, _, exec_wget_of_lt (s := State.resetOf p) h, rfl⟩

theorem first_acorr_succeeds (hp : paramsOk p) (h : idx < halfWindow p) :
    Succeeds (exec (.acorr idx) (State.resetOf p)) := by
  obtain ⟨maxCount, lag, -, hexec⟩ := exec_acorr_of_lt (s := State.resetOf p) hp h
  exact ⟨_, _, hexec, rfl⟩

/-- There is no table yet. -/
theorem first_tget_faults (hp : paramsOk p) (h : idx < halfWindow p) :
    FaultsWith .unwritten (encode (.tget idx)) (State.resetOf p) (exec (.tget idx) (State.resetOf p)) := by
  obtain ⟨-, hunwritten, -⟩ := tgetReadsCount idx (State.resetOf p) (inv_resetOf hp)
  exact hunwritten h (.inl rfl)

theorem first_ldr_succeeds {reg : Reg} (h : loadable reg = true) (imm : BitVec 24) :
    Succeeds (exec (.ldr reg imm) (State.resetOf p)) :=
  ⟨_, _, exec_ldr_of_loadable h imm _, rfl⟩

theorem first_rdr_succeeds {reg : Reg} (hmark : regMark (State.resetOf p) reg = true) :
    Succeeds (exec (.rdr reg) (State.resetOf p)) :=
  ⟨_, _, exec_rdr_of_regMark hmark, rfl⟩

theorem first_rdr_status : ∃ t, exec (.rdr .status) (State.resetOf p) = .next t ∧ t.rsp = some (.ok 0#32) :=
  ⟨_, exec_rdr_of_regMark rfl, congrArg (some ∘ Response.ok) (statusWord_resetOf p)⟩

theorem first_hcorr_faults : FaultsWith .unwritten 0x80000000#32 (State.resetOf p) (exec .hcorr (State.resetOf p)) :=
  (hcorrPreconditions _).1 (.inl rfl)

theorem first_refine_faults :
    FaultsWith .windowShort 0x90000000#32 (State.resetOf p) (exec .refine (State.resetOf p)) :=
  (refinePreconditions _).1 (resetOf_wrIdx_lt p).ne

theorem first_run_faults : FaultsWith .windowShort 0xA0000000#32 (State.resetOf p) (exec .run (State.resetOf p)) :=
  faultsWith_of_raised (exec_run_of_short (resetOf_wrIdx_lt p).ne)

end

/-- Settles O57: one lemma per command above; of the registers, those without a mark are read, and those with one are
`Unwritten`, since every mark is 0 in the reset state. -/
theorem firstCommandAfterReset : Obligations.FirstCommandAfterReset := by
  intro p hp
  have hreadable : ∀ reg ∈ [Reg.err, .errCmd, .wrIdx, .cfgRate, .cfgWindow, .cfgMinp, .cfgMaxp],
      regMark (State.resetOf p) reg = true := by simp [regMark]
  have hunwritten : ∀ reg ∈ [Reg.maxCount, .bestLag, .corrLag, .tblLo, .edge0, .edge1, .freq],
      reg ≠ .reserved11 ∧ regMark (State.resetOf p) reg = false := by simp [regMark]
  exact ⟨fun smp => ⟨first_zc_succeeds smp, first_push_succeeds hp smp⟩,
    fun _ h => ⟨first_bget_succeeds hp h, first_bset_succeeds hp h⟩,
    fun _ h => first_wget_succeeds h,
    fun _ h => ⟨first_acorr_succeeds hp h, first_tget_faults hp h⟩,
    ⟨_, _, rfl, rfl⟩, ⟨_, _, rfl, rfl⟩,
    fun imm => ⟨first_ldr_succeeds rfl imm, first_ldr_succeeds rfl imm, first_ldr_succeeds rfl imm⟩,
    first_rdr_status,
    fun reg h => first_rdr_succeeds (hreadable reg h),
    fun reg h => have ⟨hreg, hmark⟩ := hunwritten reg h; rdr_of_not_regMark hreg hmark,
    first_hcorr_faults, first_refine_faults, first_run_faults⟩

end Sys2Proof.Machine
